-- ==== Sys2Proof/Word.lean ====
section
/-! DEFINITION. The bit-vector types of the engine (00_scope.md R8, R9): bytes, 16-bit words, opcode fields. -/

namespace Sys2Proof

/-- An 8-bit value: a general register, a timer, a byte of memory, the immediate `kk` (00 R8). -/
abbrev Byte := BitVec 8

/-- A 16-bit value: the pc, `I`, an opcode, a return address (00 R8). -/
abbrev Word := BitVec 16

/-- The 4-bit register number of an opcode field: every value names one of V0..VF (10 R30). -/
abbrev Reg := BitVec 4

/-- The 12-bit address operand `nnn` (30 R101). -/
abbrev Addr := BitVec 12

/-- A 4-bit opcode field: the group `g`, the sub-opcode `s`, the height `n`, the ignored nibble (30 R101). -/
abbrev Nibble := BitVec 4

/-- The identifier a font is asked for by (10 R50, 70 R347). DESIGN CHOICE (safe, log entry 8): a natural number. -/
abbrev FontId := Nat

/-- `MEM_SIZE` (00 R8). -/
abbrev memSize : Nat := 4096

/-- `PROG_ORIGIN` (00 R8), the reset vector (20 R83). -/
abbrev progOrigin : Word := 0x200#16

/-- `PROG_MAX` = 4096 - 0x200 (00 R8). -/
abbrev progMax : Nat := 3584

/-- `STACK_DEPTH` (00 R8). -/
abbrev stackDepth : Nat := 16

/-- `DISP_W`, the columns of the grid (00 R8). -/
abbrev dispW : Nat := 64

/-- `DISP_H`, the rows of the grid (00 R8). -/
abbrev dispH : Nat := 32

/-- The bytes of one glyph (00 R8). -/
abbrev glyphSize : Nat := 5

/-- The flag register VF (10 R32). -/
abbrev regVF : Reg := 0xF#4

end Sys2Proof
end

