-- ==== Sys2Proof/Syntax.lean ====
section
/-! DEFINITION. The instructions, one constructor per row of spec/opcode_table.json, in the table's order. -/

namespace Sys2Proof

/-- One constructor per row of the opcode table: the 35 instructions and the three invalid fallback rows (30 R105 to R112,
R118). Operands are the fields of the row; the ignored nibble `z` of SE_reg and SNE_reg is kept so that an opcode can be
written back (30 R110). -/
inductive Instr where
  /-- 00E0, `CLS`. -/
  | cls
  /-- 00EE, `RET`. -/
  | ret
  /-- 0nnn, `SYS nnn`: every word of group 0 but 00E0 and 00EE. -/
  | sys (nnn : Addr)
  /-- 1nnn, `JP nnn`. -/
  | jp (nnn : Addr)
  /-- 2nnn, `CALL nnn`. -/
  | call (nnn : Addr)
  /-- 3xkk, `SE Vx, kk`. -/
  | seImm (x : Reg) (kk : Byte)
  /-- 4xkk, `SNE Vx, kk`. -/
  | sneImm (x : Reg) (kk : Byte)
  /-- 5xyz, `SE Vx, Vy`, z ignored. -/
  | seReg (x y : Reg) (z : Nibble)
  /-- 6xkk, `LD Vx, kk`. -/
  | ldImm (x : Reg) (kk : Byte)
  /-- 7xkk, `ADD Vx, kk`. -/
  | addImm (x : Reg) (kk : Byte)
  /-- 8xy0, `LD Vx, Vy`. -/
  | ldReg (x y : Reg)
  /-- 8xy1, `OR Vx, Vy`. -/
  | orReg (x y : Reg)
  /-- 8xy2, `AND Vx, Vy`. -/
  | andReg (x y : Reg)
  /-- 8xy3, `XOR Vx, Vy`. -/
  | xorReg (x y : Reg)
  /-- 8xy4, `ADD Vx, Vy`. -/
  | addReg (x y : Reg)
  /-- 8xy5, `SUB Vx, Vy`. -/
  | sub (x y : Reg)
  /-- 8xy6, `SHR Vx, Vy`. -/
  | shr (x y : Reg)
  /-- 8xy7, `SUBN Vx, Vy`. -/
  | subn (x y : Reg)
  /-- 8xyE, `SHL Vx, Vy`. -/
  | shl (x y : Reg)
  /-- 8xys, s in 8, 9, A, B, C, D, F: invalid. -/
  | invalid8 (x y : Reg) (s : Nibble)
  /-- 9xyz, `SNE Vx, Vy`, z ignored. -/
  | sneReg (x y : Reg) (z : Nibble)
  /-- Annn, `LD I, nnn`. -/
  | ldI (nnn : Addr)
  /-- Bnnn, `JP V0, nnn`; in modern mode the register is nnn[11:8]. -/
  | jpV0 (nnn : Addr)
  /-- Cxkk, `RND Vx, kk`. -/
  | rnd (x : Reg) (kk : Byte)
  /-- Dxyn, `DRW Vx, Vy, n`. -/
  | drw (x y : Reg) (n : Nibble)
  /-- Ex9E, `SKP Vx`. -/
  | skp (x : Reg)
  /-- ExA1, `SKNP Vx`. -/
  | sknp (x : Reg)
  /-- Exss, ss not 9E or A1: invalid. -/
  | invalidE (x : Reg) (ss : Byte)
  /-- Fx07, `LD Vx, DT`. -/
  | ldFromDt (x : Reg)
  /-- Fx0A, `LD Vx, K`. -/
  | ldK (x : Reg)
  /-- Fx15, `LD DT, Vx`. -/
  | ldDt (x : Reg)
  /-- Fx18, `LD ST, Vx`. -/
  | ldSt (x : Reg)
  /-- Fx1E, `ADD I, Vx`. -/
  | addI (x : Reg)
  /-- Fx29, `LD F, Vx`. -/
  | ldF (x : Reg)
  /-- Fx33, `LD B, Vx`. -/
  | ldB (x : Reg)
  /-- Fx55, `LD [I], Vx`. -/
  | stRegs (x : Reg)
  /-- Fx65, `LD Vx, [I]`. -/
  | ldRegs (x : Reg)
  /-- Fxss, ss none of the nine defined bytes: invalid. -/
  | invalidF (x : Reg) (ss : Byte)
  deriving DecidableEq, Repr

end Sys2Proof
end

