-- ==== Sys2Proof/WellFormed.lean ====
section
/-! DEFINITION. Which terms of Instr some opcode spells: the fallback rows take only the words no exact row takes (30 R106,
R112, R118). Every other operand is exactly as wide as its field, so nothing else can be ill-formed. -/

namespace Sys2Proof

/-- The low nibbles of group 8 with no instruction (30 R107, R112). -/
def invalidAluNibble (s : Nibble) : Bool :=
  s == 0x8#4 || s == 0x9#4 || s == 0xA#4 || s == 0xB#4 || s == 0xC#4 || s == 0xD#4 || s == 0xF#4

/-- The low bytes of group E with no instruction (30 R108, R112). -/
def invalidKeyByte (ss : Byte) : Bool :=
  !(ss == 0x9E#8 || ss == 0xA1#8)

/-- The low bytes of group F with no instruction (30 R109, R112). -/
def invalidMiscByte (ss : Byte) : Bool :=
  !(ss == 0x07#8 || ss == 0x0A#8 || ss == 0x15#8 || ss == 0x18#8 || ss == 0x1E#8 || ss == 0x29#8 || ss == 0x33#8
    || ss == 0x55#8 || ss == 0x65#8)

/-- The operands of `SYS`: the words of group 0 but 00E0 and 00EE (30 R106). -/
def sysOperand (nnn : Addr) : Bool :=
  !(nnn == 0x0E0#12 || nnn == 0x0EE#12)

/-- An instruction that some opcode spells. -/
def Instr.wf : Instr → Bool
  | .sys nnn => sysOperand nnn
  | .invalid8 _ _ s => invalidAluNibble s
  | .invalidE _ ss => invalidKeyByte ss
  | .invalidF _ ss => invalidMiscByte ss
  | .cls | .ret | .jp _ | .call _ | .seImm _ _ | .sneImm _ _ | .seReg _ _ _ | .ldImm _ _ | .addImm _ _ => true
  | .ldReg _ _ | .orReg _ _ | .andReg _ _ | .xorReg _ _ | .addReg _ _ | .sub _ _ | .shr _ _ | .subn _ _ => true
  | .shl _ _ | .sneReg _ _ _ | .ldI _ | .jpV0 _ | .rnd _ _ | .drw _ _ _ | .skp _ | .sknp _ | .ldFromDt _ => true
  | .ldK _ | .ldDt _ | .ldSt _ | .addI _ | .ldF _ | .ldB _ | .stRegs _ | .ldRegs _ => true

end Sys2Proof
end

