-- ==== Sys2Proof/Decode.lean ====
section
/-! DEFINITION. The decoder of the 65536 opcodes (30_encoding.md), total; the decoder of bytes, which refuses by name a list
too short to hold an opcode; the encoder; and the rows of the opcode table as data. -/

namespace Sys2Proof

/-! ## The fields of an opcode (30 R101) -/

/-- The group `g = op[15:12]`. -/
def opGroup (op : Word) : Nibble := op.extractLsb' 12 4

/-- Register X, `x = op[11:8]`. -/
def opX (op : Word) : Reg := op.extractLsb' 8 4

/-- Register Y, `y = op[7:4]`. -/
def opY (op : Word) : Reg := op.extractLsb' 4 4

/-- The constant `n = op[3:0]`, also the sub-opcode `s` of group 8. -/
def opN (op : Word) : Nibble := op.extractLsb' 0 4

/-- The immediate byte `kk = op[7:0]`, also the sub-opcode byte `ss` of groups E and F. -/
def opKK (op : Word) : Byte := op.extractLsb' 0 8

/-- The address `nnn = op[11:0]`. -/
def opNNN (op : Word) : Addr := op.extractLsb' 0 12

/-! ## Putting an opcode together (30 R102): bit 15 on the left -/

/-- The format `NNN`: the group, then the 12-bit address. -/
def wordNNN (g : Nibble) (nnn : Addr) : Word := (g ++ nnn : BitVec (4 + 12))

/-- The formats `XKK` and `XSS`: the group, register X, then a byte. -/
def wordXKK (g : Nibble) (x : Reg) (kk : Byte) : Word := (g ++ (x ++ kk : BitVec (4 + 8)) : BitVec (4 + (4 + 8)))

/-- The formats `XY_`, `XYS` and `XYN`: the group, registers X and Y, then a nibble. -/
def wordXYN (g : Nibble) (x y : Reg) (n : Nibble) : Word := wordXKK g x (y ++ n : BitVec (4 + 4))

/-- `be16(b0, b1)`: the first byte is the high byte of the opcode (00 R10, 20 R78). -/
def be16 (b0 b1 : Byte) : Word := (b0 ++ b1 : BitVec (8 + 8))

/-! ## The decoder (30 R104 to R112, R118) -/

/-- Group 0, matched on the whole word (30 R106). The words 00E0 and 00EE are PRESUMED by the spec itself (92 D4; log
entry 15). -/
def decode0 (op : Word) : Instr :=
  if op = 0x00E0#16 then .cls else if op = 0x00EE#16 then .ret else .sys (opNNN op)

/-- Group 8, by the low nibble (30 R107). -/
def decode8 (op : Word) : Instr :=
  let x := opX op
  let y := opY op
  let s := opN op
  if s = 0x0#4 then .ldReg x y
  else if s = 0x1#4 then .orReg x y
  else if s = 0x2#4 then .andReg x y
  else if s = 0x3#4 then .xorReg x y
  else if s = 0x4#4 then .addReg x y
  else if s = 0x5#4 then .sub x y
  else if s = 0x6#4 then .shr x y
  else if s = 0x7#4 then .subn x y
  else if s = 0xE#4 then .shl x y
  else .invalid8 x y s

/-- Group E, by the low byte (30 R108). -/
def decodeE (op : Word) : Instr :=
  let x := opX op
  let ss := opKK op
  if ss = 0x9E#8 then .skp x else if ss = 0xA1#8 then .sknp x else .invalidE x ss

/-- Group F, by the low byte (30 R109). -/
def decodeF (op : Word) : Instr :=
  let x := opX op
  let ss := opKK op
  if ss = 0x07#8 then .ldFromDt x
  else if ss = 0x0A#8 then .ldK x
  else if ss = 0x15#8 then .ldDt x
  else if ss = 0x18#8 then .ldSt x
  else if ss = 0x1E#8 then .addI x
  else if ss = 0x29#8 then .ldF x
  else if ss = 0x33#8 then .ldB x
  else if ss = 0x55#8 then .stRegs x
  else if ss = 0x65#8 then .ldRegs x
  else .invalidF x ss

/-- The decoder: pure bit extraction, total on the 65536 opcodes (30 R104, R105, R118). -/
def decode (op : Word) : Instr :=
  let g := opGroup op
  if g = 0x0#4 then decode0 op
  else if g = 0x1#4 then .jp (opNNN op)
  else if g = 0x2#4 then .call (opNNN op)
  else if g = 0x3#4 then .seImm (opX op) (opKK op)
  else if g = 0x4#4 then .sneImm (opX op) (opKK op)
  else if g = 0x5#4 then .seReg (opX op) (opY op) (opN op)
  else if g = 0x6#4 then .ldImm (opX op) (opKK op)
  else if g = 0x7#4 then .addImm (opX op) (opKK op)
  else if g = 0x8#4 then decode8 op
  else if g = 0x9#4 then .sneReg (opX op) (opY op) (opN op)
  else if g = 0xA#4 then .ldI (opNNN op)
  else if g = 0xB#4 then .jpV0 (opNNN op)
  else if g = 0xC#4 then .rnd (opX op) (opKK op)
  else if g = 0xD#4 then .drw (opX op) (opY op) (opN op)
  else if g = 0xE#4 then decodeE op
  else decodeF op

/-- Why a list of bytes holds no instruction. -/
inductive DecodeError where
  /-- Fewer than the two bytes of an opcode (30 R100). -/
  | truncated (available : Nat)
  deriving DecidableEq, Repr

/-- The instruction at the head of a list of bytes, high byte first (30 R100, 20 R78), with the bytes after it. -/
def decodeBytes : List Byte → Except DecodeError (Instr × List Byte)
  | b0 :: b1 :: rest => .ok (decode (be16 b0 b1), rest)
  | [_] => .error (.truncated 1)
  | [] => .error (.truncated 0)

/-- The two bytes of an opcode as memory holds them, the high byte at the lower address (20 R78). -/
def wordBytes (op : Word) : List Byte := [op.extractLsb' 8 8, op.extractLsb' 0 8]

/-- The bytes of a table word of `nbits` bits: every bit above them is 0. -/
def tableBytes (nbits w : Nat) : List Byte := wordBytes (BitVec.ofNat 16 (w % 2 ^ nbits))

/-- The instruction the decoder reads from a table word laid out in memory order. -/
def decodeTableWord (nbits w : Nat) : Option Instr :=
  match decodeBytes (tableBytes nbits w) with
  | .ok (i, _) => some i
  | .error _ => none

/-! ## The encoder (the `encoding` column of opcode_table.json) -/

/-- The opcode of an instruction. For a well-formed one it decodes to the instruction again. -/
def encode : Instr → Word
  | .cls => 0x00E0#16
  | .ret => 0x00EE#16
  | .sys nnn => wordNNN 0x0#4 nnn
  | .jp nnn => wordNNN 0x1#4 nnn
  | .call nnn => wordNNN 0x2#4 nnn
  | .seImm x kk => wordXKK 0x3#4 x kk
  | .sneImm x kk => wordXKK 0x4#4 x kk
  | .seReg x y z => wordXYN 0x5#4 x y z
  | .ldImm x kk => wordXKK 0x6#4 x kk
  | .addImm x kk => wordXKK 0x7#4 x kk
  | .ldReg x y => wordXYN 0x8#4 x y 0x0#4
  | .orReg x y => wordXYN 0x8#4 x y 0x1#4
  | .andReg x y => wordXYN 0x8#4 x y 0x2#4
  | .xorReg x y => wordXYN 0x8#4 x y 0x3#4
  | .addReg x y => wordXYN 0x8#4 x y 0x4#4
  | .sub x y => wordXYN 0x8#4 x y 0x5#4
  | .shr x y => wordXYN 0x8#4 x y 0x6#4
  | .subn x y => wordXYN 0x8#4 x y 0x7#4
  | .shl x y => wordXYN 0x8#4 x y 0xE#4
  | .invalid8 x y s => wordXYN 0x8#4 x y s
  | .sneReg x y z => wordXYN 0x9#4 x y z
  | .ldI nnn => wordNNN 0xA#4 nnn
  | .jpV0 nnn => wordNNN 0xB#4 nnn
  | .rnd x kk => wordXKK 0xC#4 x kk
  | .drw x y n => wordXYN 0xD#4 x y n
  | .skp x => wordXKK 0xE#4 x 0x9E#8
  | .sknp x => wordXKK 0xE#4 x 0xA1#8
  | .invalidE x ss => wordXKK 0xE#4 x ss
  | .ldFromDt x => wordXKK 0xF#4 x 0x07#8
  | .ldK x => wordXKK 0xF#4 x 0x0A#8
  | .ldDt x => wordXKK 0xF#4 x 0x15#8
  | .ldSt x => wordXKK 0xF#4 x 0x18#8
  | .addI x => wordXKK 0xF#4 x 0x1E#8
  | .ldF x => wordXKK 0xF#4 x 0x29#8
  | .ldB x => wordXKK 0xF#4 x 0x33#8
  | .stRegs x => wordXKK 0xF#4 x 0x55#8
  | .ldRegs x => wordXKK 0xF#4 x 0x65#8
  | .invalidF x ss => wordXKK 0xF#4 x ss

/-! ## The opcode table as data (opcode_table.json) -/

/-- One row: `match`, `mask` and `priority` (1 for an exact row, 0 for a fallback row; 30 R118). -/
structure OpcodeRow where
  pattern : Word
  mask : Word
  priority : Nat
  deriving DecidableEq, Repr

/-- A row takes an opcode when the bits under its mask are its pattern. -/
def OpcodeRow.takes (r : OpcodeRow) (op : Word) : Bool := op &&& r.mask == r.pattern

/-- The row of the opcode table each constructor stands for, with the table's own numbers. -/
def Instr.row : Instr → OpcodeRow
  | .cls => ⟨0x00E0#16, 0xFFFF#16, 1⟩
  | .ret => ⟨0x00EE#16, 0xFFFF#16, 1⟩
  | .sys _ => ⟨0x0000#16, 0xF000#16, 0⟩
  | .jp _ => ⟨0x1000#16, 0xF000#16, 1⟩
  | .call _ => ⟨0x2000#16, 0xF000#16, 1⟩
  | .seImm _ _ => ⟨0x3000#16, 0xF000#16, 1⟩
  | .sneImm _ _ => ⟨0x4000#16, 0xF000#16, 1⟩
  | .seReg _ _ _ => ⟨0x5000#16, 0xF000#16, 1⟩
  | .ldImm _ _ => ⟨0x6000#16, 0xF000#16, 1⟩
  | .addImm _ _ => ⟨0x7000#16, 0xF000#16, 1⟩
  | .ldReg _ _ => ⟨0x8000#16, 0xF00F#16, 1⟩
  | .orReg _ _ => ⟨0x8001#16, 0xF00F#16, 1⟩
  | .andReg _ _ => ⟨0x8002#16, 0xF00F#16, 1⟩
  | .xorReg _ _ => ⟨0x8003#16, 0xF00F#16, 1⟩
  | .addReg _ _ => ⟨0x8004#16, 0xF00F#16, 1⟩
  | .sub _ _ => ⟨0x8005#16, 0xF00F#16, 1⟩
  | .shr _ _ => ⟨0x8006#16, 0xF00F#16, 1⟩
  | .subn _ _ => ⟨0x8007#16, 0xF00F#16, 1⟩
  | .shl _ _ => ⟨0x800E#16, 0xF00F#16, 1⟩
  | .invalid8 _ _ _ => ⟨0x8000#16, 0xF000#16, 0⟩
  | .sneReg _ _ _ => ⟨0x9000#16, 0xF000#16, 1⟩
  | .ldI _ => ⟨0xA000#16, 0xF000#16, 1⟩
  | .jpV0 _ => ⟨0xB000#16, 0xF000#16, 1⟩
  | .rnd _ _ => ⟨0xC000#16, 0xF000#16, 1⟩
  | .drw _ _ _ => ⟨0xD000#16, 0xF000#16, 1⟩
  | .skp _ => ⟨0xE09E#16, 0xF0FF#16, 1⟩
  | .sknp _ => ⟨0xE0A1#16, 0xF0FF#16, 1⟩
  | .invalidE _ _ => ⟨0xE000#16, 0xF000#16, 0⟩
  | .ldFromDt _ => ⟨0xF007#16, 0xF0FF#16, 1⟩
  | .ldK _ => ⟨0xF00A#16, 0xF0FF#16, 1⟩
  | .ldDt _ => ⟨0xF015#16, 0xF0FF#16, 1⟩
  | .ldSt _ => ⟨0xF018#16, 0xF0FF#16, 1⟩
  | .addI _ => ⟨0xF01E#16, 0xF0FF#16, 1⟩
  | .ldF _ => ⟨0xF029#16, 0xF0FF#16, 1⟩
  | .ldB _ => ⟨0xF033#16, 0xF0FF#16, 1⟩
  | .stRegs _ => ⟨0xF055#16, 0xF0FF#16, 1⟩
  | .ldRegs _ => ⟨0xF065#16, 0xF0FF#16, 1⟩
  | .invalidF _ _ => ⟨0xF000#16, 0xF000#16, 0⟩

end Sys2Proof
end

