-- ==== Sys2Proof/Config.lean ====
section
/-! DEFINITION. What is fixed for a run but left open by the spec (00_scope.md R8, 10_state.md R52 and R53), and the free
values. A constant with no body has no value a proof can see: a theorem about it holds for every value. -/

namespace Sys2Proof

/-- The configuration record of 10 R52: true selects the legacy behaviour. -/
structure Quirks where
  /-- `QUIRK_SHIFT_FROM_Y`: SHR and SHL read V[y] (legacy) or V[x] (modern). -/
  shiftFromY : Bool
  /-- `QUIRK_JUMP_V0`: JP V0 adds V[0] (legacy) or V[x] (modern). -/
  jumpV0 : Bool
  /-- `QUIRK_LOADSTORE_INC`: LD [I], Vx and LD Vx, [I] advance I (legacy) or leave it (modern). -/
  loadStoreInc : Bool
  /-- `QUIRK_SUB_LEGACY`: true has no behaviour in the spec and is refused (10 R54). -/
  subLegacy : Bool
  deriving DecidableEq, Repr

/-- The open setting of `QUIRK_SHIFT_FROM_Y` (92 D1; log entry 5). -/
opaque Config.shiftFromY : Bool

/-- The open setting of `QUIRK_JUMP_V0` (92 D1; log entry 5). -/
opaque Config.jumpV0 : Bool

/-- The open setting of `QUIRK_LOADSTORE_INC` (92 D1; log entry 5). -/
opaque Config.loadStoreInc : Bool

/-- The configuration of the run `Sys2Proof.core` gives the host (10 R52, R53): the three open quirks, and
`QUIRK_SUB_LEGACY`, which "must be false" (00 R8, 10 R54; log entry 6). `exec` and `step`, which have no argument for it, read
it; an engine constructed with any other configuration runs by `execWith` and `stepWith`. -/
def Config.quirks : Quirks where
  shiftFromY := Config.shiftFromY
  jumpV0 := Config.jumpV0
  loadStoreInc := Config.loadStoreInc
  subLegacy := false

/-- The open choice of `FONT_BASE`: at least 80 bytes must fit below 0x200 (00 R8, 92 D13, D14; log entry 7). -/
opaque Config.fontBaseChoice : Fin 433

/-- The open choice of the bytes of the font region beyond the least 80 (92 D14; log entry 7). -/
opaque Config.fontSlackChoice : Fin ((432 - Config.fontBaseChoice.val) + 1)

/-- `FONT_BASE` (00 R8, 20 R82). -/
def Config.fontBase : Nat := Config.fontBaseChoice.val

/-- `FONT_REGION_SIZE` (00 R8, 20 R82): at least 80, and the region ends at or below 0x200. -/
def Config.fontRegionSize : Nat := 80 + Config.fontSlackChoice.val

/-- `FONT_DATA(id)` (00 R8, 60 R328): the bytes the font supplier returns, none for an unknown identifier (92 D15; log
entry 8). -/
opaque Config.fontData : FontId → Option (List Byte)

/-- FREE VALUE: the byte of the n-th draw from the RNG port (60 R326, 92 D24; log entry 3). -/
opaque Config.rngByte : Nat → Byte

/-- FREE VALUE: the opcode field of a FetchFailed StepResult, which holds no defined value (10 R57, 93 I10; log entry 4). -/
opaque Config.fetchFailedOpcode : Nat → Word

/-- FREE VALUE: V[k] at construction, unspecified (10 R60, 70 R340; log entry 14). -/
opaque Config.constructionV : Fin 16 → Byte

/-- FREE VALUE: I at construction, unspecified (10 R60, 70 R340; log entry 14). -/
opaque Config.constructionI : Word

/-- FREE VALUE: DT at construction, unspecified (10 R60, 70 R340; log entry 14). -/
opaque Config.constructionDT : Byte

/-- FREE VALUE: ST at construction, unspecified (10 R60, 70 R340; log entry 14). -/
opaque Config.constructionST : Byte

/-- FREE VALUE: the byte at each address of memory at construction, unspecified (10 R60, 70 R340; log entry 14). -/
opaque Config.constructionByte : Nat → Byte

end Sys2Proof
end

