-- ==== Sys2Proof/Machine/State.lean ====
section
/-! DEFINITION. The state of the engine as plain data (10_state.md R59), the machine after reset, and the reasons a step can
stop. -/

namespace Sys2Proof.Machine

/-- The closed set of statuses of a step, in the order of their codes 0 to 5 (60 R300). -/
inductive Status where
  /-- The instruction completed. -/
  | success
  /-- The opcode is an invalid encoding (60 R301). -/
  | instructionInvalid
  /-- The opcode is a reserved, unsupported instruction (60 R302). -/
  | instructionNotImplemented
  /-- CALL with 16 entries on the stack (60 R303). -/
  | stackFull
  /-- RET with an empty stack (60 R304). -/
  | stackEmpty
  /-- The opcode could not be fetched (60 R305). -/
  | fetchFailed
  deriving DecidableEq, Repr

/-- The record a step returns (10 R56). -/
structure StepResult where
  /-- Success or the failure kind. -/
  status : Status
  /-- The raw opcode fetched (40 R136); a free value after FetchFailed (10 R57). -/
  opcode : Word
  /-- The step executed CLS or DRW successfully (40 R142). -/
  displayMutated : Bool
  /-- The step executed LD ST, Vx successfully (40 R142). -/
  soundWritten : Bool
  deriving DecidableEq, Repr

/-- The grid of 64 x 32 pixels, row by row from the top, each row from the left; true is on (10 R47). -/
abbrev Display := Vector (Vector Bool 64) 32

/-- Memory: the bytes that differ from what an unlisted address reads as, at strictly rising addresses (`Memory.wf`). -/
abbrev Memory := List Host.Cell

/-- The state of the engine: the tuple of 10 R59, and two fields of the model's own (`result`, `freeIndex`). -/
structure State where
  /-- The general registers V0..VF (10 R30). -/
  v : Vector Byte 16
  /-- The index register I (10 R38). -/
  i : Word
  /-- The program counter: before a step the address of the opcode it fetches, during an instruction that address
  plus 2 (10 R34, R35). -/
  pc : Word
  /-- The delay timer DT (10 R40). -/
  dt : Byte
  /-- The sound timer ST (10 R41). -/
  st : Byte
  /-- The return stack S, oldest entry first (10 R42). -/
  stack : List Word
  /-- The display grid (10 R47). -/
  disp : Display
  /-- The 4096 bytes of memory (10 R49). -/
  mem : Memory
  /-- The font last loaded, metadata only (10 R50). -/
  activeFont : Option FontId
  /-- Set by a FetchFailed step, cleared only by a program load (10 R51). -/
  haltedFetch : Bool
  /-- Set by a model fault and never cleared (10 R51, 60 R307). -/
  fault : Bool
  /-- DESIGN CHOICE (safe, log entry 1): the reply of the latest step (10 R56), which the spec's engine hands to the host
  and does not keep. -/
  result : StepResult
  /-- DESIGN CHOICE (safe, log entry 2): how many free values have been drawn, so that each draw is a fresh one. -/
  freeIndex : Nat
  deriving DecidableEq, Repr

/-- The machine after reset: the hard reset of the spec is an accepted program load (00 R13, 70 R342), here of a program of
no bytes into a newly constructed engine, with no font re-applied (log entry 9). Every value but the model's own two fields
is the spec's (10 R60). -/
def State.reset : State where
  v := Vector.replicate 16 0#8
  i := 0#16
  pc := progOrigin
  dt := 0#8
  st := 0#8
  stack := []
  disp := Vector.replicate 32 (Vector.replicate 64 false)
  mem := []
  activeFont := none
  haltedFetch := false
  fault := false
  result := { status := .success, opcode := 0#16, displayMutated := false, soundWritten := false }
  freeIndex := 0

/-- Why the machine stops. -/
inductive Fault where
  /-- The model fault `MemoryOutOfRange` (20 R77, 60 R307): raised by DRW with n >= 1, LD B, LD [I] and LD Vx, [I] when the
  data range leaves [0, 4096). Safe: the spec gives no claim about such a run (log entry 11). -/
  | memoryOutOfRange
  /-- No step exists while `fault` is 1 (40 R131): raised by step. Safe: stuck (log entry 12). -/
  | stuckAfterModelFault
  /-- No step exists while `halted_fetch` is 1 (40 R131): raised by step. Safe: stuck until a load (log entry 12). -/
  | stuckAfterFetchFailed
  deriving DecidableEq, Repr

/-- Why the model gives no run. -/
inductive Refusal where
  /-- An instruction with no meaning yet: raised only by an arm of exec. Safe. -/
  | notModelled (mnemonic : String)
  /-- A configuration with `QUIRK_SUB_LEGACY` true, whose behaviour the source never gives (10 R54, 60 R308): raised by
  construction and by step. Safe (log entry 6). -/
  | quirkSubLegacy
  deriving DecidableEq, Repr

/-- What an instruction or a step answers. -/
abbrev StepOutcome := Host.Outcome State Fault Refusal

end Sys2Proof.Machine
end

