-- ==== Sys2Proof/Machine/Ops.lean ====
section
/-! DEFINITION. The operations over memory, registers, the pc, the return stack and the StepResult that every instruction
is written with, the fetch, and what a failure and a model fault leave. The engine has no trap entry and no trap return (60
R310, R311): a failure is a status, recorded by `State.failWith`. -/

namespace Sys2Proof.Machine

/-! ## Memory (20_memory.md) -/

/-- What an address that is not listed reads as: 0, the contents a program load leaves (70 R344, 92 D16; log entry 10). -/
def Memory.unlisted : Byte := 0#8

/-- The byte at an address. -/
def Memory.read : Memory → Nat → Byte
  | [], _ => Memory.unlisted
  | (a', b) :: m, a => if a = a' then b else Memory.read m a

/-- Memory with one byte replaced, in canonical form again. -/
def Memory.write : Memory → Nat → Byte → Memory
  | [], a, b => if b = Memory.unlisted then [] else [(a, b)]
  | (a', b') :: m, a, b =>
    if a < a' then (if b = Memory.unlisted then (a', b') :: m else (a, b) :: (a', b') :: m)
    else if a = a' then (if b = Memory.unlisted then m else (a, b) :: m)
    else (a', b') :: Memory.write m a b

/-- The canonical form from an address on: strictly rising addresses of [0, 4096), no byte that equals the unlisted one. -/
def Memory.wfFrom : Nat → Memory → Bool
  | _, [] => true
  | lo, (a, b) :: m => decide (lo ≤ a) && decide (a < memSize) && !(b == Memory.unlisted) && Memory.wfFrom (a + 1) m

/-- The canonical form of memory: equal memories are equal lists. -/
def Memory.wf (m : Memory) : Bool := Memory.wfFrom 0 m

/-- `MemRead(a, n)` (20 R74): the bytes at a .. a+n-1, or failure when the range leaves memory; no access when n = 0. The
addresses are unbounded integers. -/
def Memory.readRange (m : Memory) (a n : Nat) : Option (List Byte) :=
  if n = 0 then some []
  else if a + n ≤ memSize then some ((List.range n).map fun k => m.read (a + k))
  else none

/-- The bytes written one after the other at ascending addresses (20 R79). -/
def Memory.writeAll : Memory → Nat → List Byte → Memory
  | m, _, [] => m
  | m, a, b :: bs => Memory.writeAll (m.write a b) (a + 1) bs

/-- `MemWrite(a, n, bytes)` (20 R75): every byte, or failure and no byte when the range leaves memory. -/
def Memory.writeRange (m : Memory) (a : Nat) (bs : List Byte) : Option Memory :=
  if a + bs.length ≤ memSize then some (m.writeAll a bs) else none

/-! ## Registers and the pc (10_state.md) -/

/-- The read of a general register, `V[r]` (10 R30). -/
def State.getV (s : State) (r : Reg) : Byte := s.v[r.toNat]'r.isLt

/-- The write of a general register, `V[r] <- b` (10 R30). -/
def State.setV (s : State) (r : Reg) (b : Byte) : State := { s with v := s.v.set r.toNat b r.isLt }

/-- The write of the index register (10 R38). -/
def State.setI (s : State) (w : Word) : State := { s with i := w }

/-- The write of the pc (10 R34); no target is checked (41 R150). -/
def State.setPc (s : State) (w : Word) : State := { s with pc := w }

/-- The write of the delay timer (10 R40). -/
def State.setDT (s : State) (b : Byte) : State := { s with dt := b }

/-- The write of the sound timer (10 R41). -/
def State.setST (s : State) (b : Byte) : State := { s with st := b }

/-- The write of memory as a whole. -/
def State.setMem (s : State) (m : Memory) : State := { s with mem := m }

/-- The write of the display as a whole. -/
def State.setDisp (s : State) (d : Display) : State := { s with disp := d }

/-- The advance of the pc by the fetch: 2, mod 2^16 (40 R135). -/
def State.advancePc (s : State) : State := s.setPc (s.pc + 2#16)

/-- `Skip`: 2 more on the post-fetch pc, mod 2^16 (41 R151). -/
def State.skip (s : State) : State := s.setPc (s.pc + 2#16)

/-- Skip when the condition holds (41 R156 to R159). -/
def State.skipIf (s : State) (c : Bool) : State := if c then s.skip else s

/-! ## The return stack (10 R42 to R46) -/

/-- `Push(v)` (10 R45): none when the stack is full, with 16 entries (or more, which no run reaches: DESIGN CHOICE, safe, log
entry 16). -/
def State.push (s : State) (w : Word) : Option State :=
  if s.stack.length < stackDepth then some { s with stack := s.stack ++ [w] } else none

/-- `Pop()` (10 R46): the last entry and the state without it; none when the stack is empty. -/
def State.pop (s : State) : Option (Word × State) :=
  match s.stack.getLast? with
  | some w => some (w, { s with stack := s.stack.dropLast })
  | none => none

/-! ## The StepResult (10 R56, R57) -/

/-- The numeric code of a status (60 R300). -/
def Status.code : Status → Nat
  | .success => 0
  | .instructionInvalid => 1
  | .instructionNotImplemented => 2
  | .stackFull => 3
  | .stackEmpty => 4
  | .fetchFailed => 5

/-- The record a step starts with (40 R143). -/
def StepResult.start (op : Word) : StepResult :=
  { status := .success, opcode := op, displayMutated := false, soundWritten := false }

/-- `status <- S`: a failing instruction records its status and writes nothing else; both flags are 0 (40 R138, 10 R57). -/
def State.failWith (s : State) (f : Status) : State :=
  { s with result := { s.result with status := f, displayMutated := false, soundWritten := false } }

/-- `display_mutated <- 1` (40 R142). -/
def State.markDisplay (s : State) : State := { s with result := { s.result with displayMutated := true } }

/-- `sound_written <- 1` (40 R142). -/
def State.markSound (s : State) : State := { s with result := { s.result with soundWritten := true } }

/-! ## Free values -/

/-- The next free value is a fresh one (log entry 2). -/
def State.nextFree (s : State) : State := { s with freeIndex := s.freeIndex + 1 }

/-- `draw_byte()`: the byte the RNG port answers now, any byte (60 R326; log entry 3). -/
def State.drawnByte (s : State) : Byte := Config.rngByte s.freeIndex

/-! ## The fetch (40 R132 to R136) -/

/-- The opcode at the pc, big-endian; none when its two bytes are not both in memory (40 R132, R134). -/
def State.fetch (s : State) : Option Word :=
  match s.mem.readRange s.pc.toNat 2 with
  | some (b0 :: b1 :: _) => some (be16 b0 b1)
  | _ => none

/-- The state an instruction executes in: the pc advanced, the record started (40 R135, R143). -/
def State.beginCycle (s : State) (op : Word) : State := { s.advancePc with result := StepResult.start op }

/-- What a failed fetch leaves: the pc advanced, `halted_fetch` set, the status FetchFailed with an opcode that is a free
value (40 R133, 10 R57; log entry 4). -/
def State.fetchFailed (s : State) : State :=
  { s.advancePc with
    haltedFetch := true
    result := { status := .fetchFailed, opcode := Config.fetchFailedOpcode s.freeIndex, displayMutated := false,
                soundWritten := false }
    freeIndex := s.freeIndex + 1 }

/-- What a step that raises the model fault leaves: the pc advanced and `fault` set, nothing else (20 R77, 60 R307). -/
def State.modelFaulted (s : State) : State := { s.advancePc with fault := true }

/-- The `step` transaction (40 R143) under a configuration and the meaning of its instructions: enabled when the
configuration is not refused and neither `fault` nor `halted_fetch` is set (R131); a failed fetch executes nothing (R133). -/
def stepBy (q : Quirks) (execute : Instr → State → StepOutcome) (s : State) : StepOutcome :=
  if q.subLegacy then .refused .quirkSubLegacy
  else if s.fault then .fault .stuckAfterModelFault
  else if s.haltedFetch then .fault .stuckAfterFetchFailed
  else
    match s.fetch with
    | none => .next s.fetchFailed
    | some op => execute (decode op) (s.beginCycle op)

/-- A word placed at the pc, high byte first, where the next fetch reads it (20 R78); memory as it was when the two bytes
are not both in memory. -/
def State.placeWord (s : State) (bs : List Byte) : State := s.setMem ((s.mem.writeRange s.pc.toNat bs).getD s.mem)

end Sys2Proof.Machine
end

