-- ==== Sys2Proof/Machine/Operands.lean ====
section
/-! DEFINITION. The operand forms (30 R103, 43 R220): zero-extended immediates, the quirk-dependent registers, the
index-relative ranges, the decimal digits and the glyph address. A quirk is an argument here; the meanings pass the run's
configuration. -/

namespace Sys2Proof.Machine

/-- `zext_16(nnn)` (30 R103). -/
def zextAddr (nnn : Addr) : Word := nnn.setWidth 16

/-- `zext_16(b)` of a register's value (00 R10). -/
def zextByte (b : Byte) : Word := b.setWidth 16

/-- The operand of a shift: V[y] in legacy mode, V[x] in modern mode (42 R189, R191). -/
def shiftSource (fromY : Bool) (x y : Reg) (s : State) : Byte := if fromY then s.getV y else s.getV x

/-- The register of JP V0: V0 in legacy mode, x = nnn[11:8] in modern mode (41 R160). -/
def jumpRegister (useV0 : Bool) (nnn : Addr) : Reg := if useV0 then 0x0#4 else nnn.extractLsb' 8 4

/-- The target of JP V0: the address plus the register, in 16 bits (41 R160). -/
def jumpTarget (useV0 : Bool) (nnn : Addr) (s : State) : Word :=
  zextAddr nnn + zextByte (s.getV (jumpRegister useV0 nnn))

/-- The number of registers LD [I], Vx and LD Vx, [I] transfer, `x + 1` (43 R225, R226). -/
def transferCount (x : Reg) : Nat := x.toNat + 1

/-- The legacy increment after a transfer: `I <- (I + x + 1) mod 2^16` (43 R225, R226). -/
def advanceIndex (inc : Bool) (x : Reg) (s : State) : State :=
  if inc then s.setI (s.i + BitVec.ofNat 16 (transferCount x)) else s

/-- The values `[V[0], ..., V[x]]` (43 R225). -/
def firstRegisters (x : Reg) (s : State) : List Byte :=
  (List.range (transferCount x)).map fun k => s.getV (BitVec.ofNat 4 k)

/-- `V[k] <- b[k]` for the bytes of a list, from register k on (43 R226). -/
def loadRegistersFrom : Nat → List Byte → State → State
  | _, [], s => s
  | k, b :: bs, s => loadRegistersFrom (k + 1) bs (s.setV (BitVec.ofNat 4 k) b)

/-- The hundreds, tens and ones of a register's value (43 R224). -/
def decimalDigits (b : Byte) : List Byte :=
  [BitVec.ofNat 8 (b.toNat / 100), BitVec.ofNat 8 (b.toNat / 10 % 10), BitVec.ofNat 8 (b.toNat % 10)]

/-- The address of the glyph of a value's low nibble: `FONT_BASE + 5 * (V[x] & 0x0F)` (43 R223). -/
def glyphAddress (fontBase : Nat) (b : Byte) : Word := BitVec.ofNat 16 (fontBase + glyphSize * (b &&& 0x0F#8).toNat)

end Sys2Proof.Machine
end

