-- ==== Sys2Proof/Machine/Flags.lean ====
section
/-! DEFINITION. The flags the 0x8 group writes into VF, and the write of a result with its flag (10 R32, 42 R180). The
collision flag of DRW is in Machine/Display.lean. -/

namespace Sys2Proof.Machine

/-- A flag as a register value: 0 or 1. -/
def flagByte (f : Bool) : Byte := if f then 1#8 else 0#8

/-- Carry out of the 9-bit sum (42 R187). -/
def carryOut (a b : Byte) : Bool := decide (a.toNat + b.toNat > 0xFF)

/-- Not-borrow of a - b: 1 when the minuend is at least the subtrahend (42 R188, R190). -/
def notBorrow (a b : Byte) : Bool := decide (a.toNat ≥ b.toNat)

/-- The bit a right shift shifts out, bit 0 (42 R189). -/
def shiftedOutRight (b : Byte) : Bool := b.getLsbD 0

/-- The bit a left shift shifts out, bit 7 (42 R191). -/
def shiftedOutLeft (b : Byte) : Bool := b.getLsbD 7

/-- `V[x] <- r`, then `VF <- f`: with x = 15, VF ends holding the flag (40 R140, 42 R180). -/
def State.writeFlagged (s : State) (x : Reg) (r : Byte) (f : Bool) : State := (s.setV x r).setV regVF (flagByte f)

end Sys2Proof.Machine
end

