-- ==== Sys2Proof/Machine/Arithmetic.lean ====
section
/-! DEFINITION. The register loads and the arithmetic (42_arithmetic.md). Every operand is read from the state given, before
any write (42 R180). -/

namespace Sys2Proof.Machine

/-- `LD Vx, kk` (42 R181). -/
def execLdImm (x : Reg) (kk : Byte) (s : State) : StepOutcome := .next (s.setV x kk)

/-- `ADD Vx, kk` (42 R182): mod 2^8, no flag. -/
def execAddImm (x : Reg) (kk : Byte) (s : State) : StepOutcome := .next (s.setV x (s.getV x + kk))

/-- `LD Vx, Vy` (42 R183). -/
def execLdReg (x y : Reg) (s : State) : StepOutcome := .next (s.setV x (s.getV y))

/-- `OR Vx, Vy` (42 R184): no flag. -/
def execOrReg (x y : Reg) (s : State) : StepOutcome := .next (s.setV x (s.getV x ||| s.getV y))

/-- `AND Vx, Vy` (42 R185): no flag. -/
def execAndReg (x y : Reg) (s : State) : StepOutcome := .next (s.setV x (s.getV x &&& s.getV y))

/-- `XOR Vx, Vy` (42 R186): no flag. -/
def execXorReg (x y : Reg) (s : State) : StepOutcome := .next (s.setV x (s.getV x ^^^ s.getV y))

/-- `ADD Vx, Vy` (42 R187): VF = carry. -/
def execAddReg (x y : Reg) (s : State) : StepOutcome :=
  .next (s.writeFlagged x (s.getV x + s.getV y) (carryOut (s.getV x) (s.getV y)))

/-- `SUB Vx, Vy` (42 R188): VF = not-borrow of Vx - Vy. -/
def execSub (x y : Reg) (s : State) : StepOutcome :=
  .next (s.writeFlagged x (s.getV x - s.getV y) (notBorrow (s.getV x) (s.getV y)))

/-- `SHR Vx, Vy` under a configuration (42 R189): VF = the bit shifted out. -/
def shiftRight (q : Quirks) (x y : Reg) (s : State) : StepOutcome :=
  let src := shiftSource q.shiftFromY x y s
  .next (s.writeFlagged x (src >>> 1) (shiftedOutRight src))

/-- `SHR Vx, Vy` (42 R189). -/
def execShr (x y : Reg) (s : State) : StepOutcome := shiftRight Config.quirks x y s

/-- `SUBN Vx, Vy` (42 R190): VF = not-borrow of Vy - Vx. -/
def execSubn (x y : Reg) (s : State) : StepOutcome :=
  .next (s.writeFlagged x (s.getV y - s.getV x) (notBorrow (s.getV y) (s.getV x)))

/-- `SHL Vx, Vy` under a configuration (42 R191): VF = the bit shifted out. -/
def shiftLeft (q : Quirks) (x y : Reg) (s : State) : StepOutcome :=
  let src := shiftSource q.shiftFromY x y s
  .next (s.writeFlagged x (src <<< 1) (shiftedOutLeft src))

/-- `SHL Vx, Vy` (42 R191). -/
def execShl (x y : Reg) (s : State) : StepOutcome := shiftLeft Config.quirks x y s

/-- `RND Vx, kk` (42 R193): a drawn byte, any byte, under the mask. -/
def execRnd (x : Reg) (kk : Byte) (s : State) : StepOutcome := .next (s.nextFree.setV x (s.drawnByte &&& kk))

end Sys2Proof.Machine
end

