-- ==== Sys2Proof/Machine/Control.lean ====
section
/-! DEFINITION. The control-flow instructions (41_control_flow.md). The state given is the one after the fetch: its pc is
the address of the instruction plus 2. -/

namespace Sys2Proof.Machine

/-- `RET` (41 R153): StackEmpty, or the last entry into the pc. -/
def execRet (s : State) : StepOutcome :=
  match s.pop with
  | some (w, t) => .next (t.setPc w)
  | none => .next (s.failWith .stackEmpty)

/-- `SYS nnn` (41 R152): InstructionNotImplemented. -/
def execSys (_nnn : Addr) (s : State) : StepOutcome := .next (s.failWith .instructionNotImplemented)

/-- `JP nnn` (41 R154). -/
def execJp (nnn : Addr) (s : State) : StepOutcome := .next (s.setPc (zextAddr nnn))

/-- `CALL nnn` (41 R155): StackFull, or the post-fetch pc pushed and the address into the pc. -/
def execCall (nnn : Addr) (s : State) : StepOutcome :=
  match s.push s.pc with
  | some t => .next (t.setPc (zextAddr nnn))
  | none => .next (s.failWith .stackFull)

/-- `SE Vx, kk` (41 R156). -/
def execSeImm (x : Reg) (kk : Byte) (s : State) : StepOutcome := .next (s.skipIf (s.getV x == kk))

/-- `SNE Vx, kk` (41 R157). -/
def execSneImm (x : Reg) (kk : Byte) (s : State) : StepOutcome := .next (s.skipIf (s.getV x != kk))

/-- `SE Vx, Vy` (41 R158). -/
def execSeReg (x y : Reg) (s : State) : StepOutcome := .next (s.skipIf (s.getV x == s.getV y))

/-- `SNE Vx, Vy` (41 R159). -/
def execSneReg (x y : Reg) (s : State) : StepOutcome := .next (s.skipIf (s.getV x != s.getV y))

/-- `JP V0, nnn` under a configuration (41 R160). -/
def jumpOffset (q : Quirks) (nnn : Addr) (s : State) : StepOutcome := .next (s.setPc (jumpTarget q.jumpV0 nnn s))

/-- `JP V0, nnn` (41 R160). -/
def execJpV0 (nnn : Addr) (s : State) : StepOutcome := jumpOffset Config.quirks nnn s

end Sys2Proof.Machine
end

