-- ==== Sys2Proof/Machine/Display.lean ====
section
/-! DEFINITION. The display grid, the sprite draw and its collision (44_display.md). -/

namespace Sys2Proof.Machine

/-- `disp(c, r)`: the pixel of column c and row r (10 R47); no pixel is on outside the grid. -/
def Display.pixel (d : Display) (c r : Nat) : Bool := if h : c < 64 ∧ r < 32 then (d[r]'h.2)[c]'h.1 else false

/-- The grid with one pixel replaced; a place outside the grid names no pixel. -/
def Display.setPixel (d : Display) (c r : Nat) (p : Bool) : Display :=
  if h : c < 64 ∧ r < 32 then d.set r ((d[r]'h.2).set c p h.1) h.2 else d

/-- The grid with every pixel 0. -/
def Display.clear : Display := Vector.replicate 32 (Vector.replicate 64 false)

/-- A draw in progress: the grid so far and the collision so far (44 R252). -/
structure Drawing where
  grid : Display
  collision : Bool
  deriving DecidableEq, Repr

/-- One sprite bit at a place: clipped outside the grid (44 R256), else XORed into its pixel (R257), with a collision when
the pixel and the bit are both 1 (R258). -/
def drawPixel (d : Drawing) (px py : Nat) (p : Bool) : Drawing :=
  if px ≥ dispW ∨ py ≥ dispH then d
  else
    { grid := Display.setPixel d.grid px py (Display.pixel d.grid px py ^^ p)
      collision := d.collision || (p && Display.pixel d.grid px py) }

/-- The bit of a row byte that is column i of the sprite: bit 7 - i, the most significant leftmost (44 R255). -/
def spriteBit (row : Byte) (i : Nat) : Bool := row.getLsbD (7 - i)

/-- One row of a sprite, its 8 bits from the left (44 R252). -/
def drawRow (ox py : Nat) (row : Byte) (d : Drawing) : Drawing :=
  (List.range 8).foldl (fun d i => drawPixel d (ox + i) py (spriteBit row i)) d

/-- The rows of a sprite from row py down (44 R252). -/
def drawRows (ox : Nat) : Nat → List Byte → Drawing → Drawing
  | _, [], d => d
  | py, row :: rows, d => drawRows ox (py + 1) rows (drawRow ox py row d)

/-- The origin column, `V[x] mod 64` (44 R253). -/
def originX (x : Reg) (s : State) : Nat := (s.getV x).toNat % dispW

/-- The origin row, `V[y] mod 32` (44 R253). -/
def originY (y : Reg) (s : State) : Nat := (s.getV y).toNat % dispH

/-- The whole sprite drawn on the state's grid, with no collision at first (44 R252). -/
def drawSprite (x y : Reg) (rows : List Byte) (s : State) : Drawing :=
  drawRows (originX x s) (originY y s) rows { grid := s.disp, collision := false }

/-- `CLS` (44 R251). -/
def execCls (s : State) : StepOutcome := .next (s.setDisp Display.clear).markDisplay

/-- `DRW Vx, Vy, n` (44 R252 to R259): all n bytes are read first (R254), VF is written after all rows (R258). -/
def execDrw (x y : Reg) (n : Nibble) (s : State) : StepOutcome :=
  match s.mem.readRange s.i.toNat n.toNat with
  | some rows =>
    let d := drawSprite x y rows s
    .next ((s.setDisp d.grid).setV regVF (flagByte d.collision)).markDisplay
  | none => .fault .memoryOutOfRange

end Sys2Proof.Machine
end

