-- ==== Sys2Proof/Machine/Index.lean ====
section
/-! DEFINITION. The index register and the memory transfers (43_index_memory.md). The range of a transfer is checked before
anything is written; a range that leaves memory is the model fault (20 R77). -/

namespace Sys2Proof.Machine

/-- `LD I, nnn` (43 R221). -/
def execLdI (nnn : Addr) (s : State) : StepOutcome := .next (s.setI (zextAddr nnn))

/-- `ADD I, Vx` (43 R222): mod 2^16, no flag, no access. -/
def execAddI (x : Reg) (s : State) : StepOutcome := .next (s.setI (s.i + zextByte (s.getV x)))

/-- `LD F, Vx` (43 R223): no access. -/
def execLdF (x : Reg) (s : State) : StepOutcome := .next (s.setI (glyphAddress Config.fontBase (s.getV x)))

/-- The bytes written at I, I+1, ..., or the model fault and nothing written (43 R220, 20 R75, R77). -/
def State.storeAtI (s : State) (bs : List Byte) : Option State :=
  (s.mem.writeRange s.i.toNat bs).map s.setMem

/-- `LD B, Vx` (43 R224). -/
def execLdB (x : Reg) (s : State) : StepOutcome :=
  match s.storeAtI (decimalDigits (s.getV x)) with
  | some t => .next t
  | none => .fault .memoryOutOfRange

/-- `LD [I], Vx` under a configuration (43 R225). -/
def storeRegisters (q : Quirks) (x : Reg) (s : State) : StepOutcome :=
  match s.storeAtI (firstRegisters x s) with
  | some t => .next (advanceIndex q.loadStoreInc x t)
  | none => .fault .memoryOutOfRange

/-- `LD [I], Vx` (43 R225). -/
def execStRegs (x : Reg) (s : State) : StepOutcome := storeRegisters Config.quirks x s

/-- `LD Vx, [I]` under a configuration (43 R226): the bytes are read before any register is written. -/
def loadRegisters (q : Quirks) (x : Reg) (s : State) : StepOutcome :=
  match s.mem.readRange s.i.toNat (transferCount x) with
  | some bs => .next (advanceIndex q.loadStoreInc x (loadRegistersFrom 0 bs s))
  | none => .fault .memoryOutOfRange

/-- `LD Vx, [I]` (43 R226). -/
def execLdRegs (x : Reg) (s : State) : StepOutcome := loadRegisters Config.quirks x s

end Sys2Proof.Machine
end

