-- ==== Sys2Proof/Machine/Invalid.lean ====
section
/-! DEFINITION. The three invalid fallback rows: they spell no instruction, and the step reports InstructionInvalid with no
other effect than the pc advance (30 R112, 60 R301). -/

namespace Sys2Proof.Machine

/-- 8xys with s in 8 to D or F (42 R192). -/
def execInvalid8 (_x _y : Reg) (_s8 : Nibble) (s : State) : StepOutcome := .next (s.failWith .instructionInvalid)

/-- Exss with ss not 9E or A1 (30 R108). -/
def execInvalidE (_x : Reg) (_ss : Byte) (s : State) : StepOutcome := .next (s.failWith .instructionInvalid)

/-- Fxss with ss none of the nine defined bytes (30 R109). -/
def execInvalidF (_x : Reg) (_ss : Byte) (s : State) : StepOutcome := .next (s.failWith .instructionInvalid)

end Sys2Proof.Machine
end

