-- ==== Sys2Proof/Machine/TimersKeys.lean ====
section
/-! DEFINITION. The timer instructions and the keypad instructions, which this engine does not implement
(45_timers_keys.md). -/

namespace Sys2Proof.Machine

/-- `LD Vx, DT` (45 R280). -/
def execLdFromDt (x : Reg) (s : State) : StepOutcome := .next (s.setV x s.dt)

/-- `LD DT, Vx` (45 R281). -/
def execLdDt (x : Reg) (s : State) : StepOutcome := .next (s.setDT (s.getV x))

/-- `LD ST, Vx` (45 R282): sound_written is 1 whatever the value. -/
def execLdSt (x : Reg) (s : State) : StepOutcome := .next (s.setST (s.getV x)).markSound

/-- `SKP Vx` (45 R283): InstructionNotImplemented, no key read, no skip. -/
def execSkp (_x : Reg) (s : State) : StepOutcome := .next (s.failWith .instructionNotImplemented)

/-- `SKNP Vx` (45 R284): InstructionNotImplemented, no key read, no skip. -/
def execSknp (_x : Reg) (s : State) : StepOutcome := .next (s.failWith .instructionNotImplemented)

/-- `LD Vx, K` (45 R285): InstructionNotImplemented, no wait. -/
def execLdK (_x : Reg) (s : State) : StepOutcome := .next (s.failWith .instructionNotImplemented)

end Sys2Proof.Machine
end

