-- ==== Sys2Proof/Machine/Step.lean ====
section
/-! DEFINITION. One step of the engine (40 R143), and the placing of a word where the next step fetches it. -/

namespace Sys2Proof.Machine

/-- The `step` transaction (40 R143) under the configuration of the host's run. -/
def step (s : State) : Host.Outcome State Fault Refusal := stepBy Config.quirks exec s

/-- The state with a table word of `nbits` bits at the pc, so that the next step fetches it. From `State.reset` it stands for
the load of a program of that one word at 0x200 (70 R342; log entry 9). -/
def State.withFetchWord (s : State) (nbits w : Nat) : State := s.placeWord (tableBytes nbits w)

end Sys2Proof.Machine
end

