-- ==== Sys2Proof/Machine/Configured.lean ====
section
/-! DEFINITION. The engine under any configuration (10 R52, R53): the configuration is a parameter of the whole run, read by
the instructions it changes and by no other. `exec` and `step` are this engine under the host's run's configuration. -/

namespace Sys2Proof.Machine

/-- The meaning of an instruction under a configuration: five instructions read it (10 R52). -/
def execWith (q : Quirks) (i : Instr) (s : State) : StepOutcome :=
  match i with
  | .shr x y => shiftRight q x y s
  | .shl x y => shiftLeft q x y s
  | .jpV0 nnn => jumpOffset q nnn s
  | .stRegs x => storeRegisters q x s
  | .ldRegs x => loadRegisters q x s
  | .cls | .ret | .sys _ | .jp _ | .call _ | .seImm _ _ | .sneImm _ _ | .seReg _ _ _ | .sneReg _ _ _ => exec i s
  | .ldImm _ _ | .addImm _ _ | .ldReg _ _ | .orReg _ _ | .andReg _ _ | .xorReg _ _ | .addReg _ _ | .sub _ _ => exec i s
  | .subn _ _ | .invalid8 _ _ _ | .ldI _ | .rnd _ _ | .drw _ _ _ | .skp _ | .sknp _ | .invalidE _ _ => exec i s
  | .ldFromDt _ | .ldK _ | .ldDt _ | .ldSt _ | .addI _ | .ldF _ | .ldB _ | .invalidF _ _ => exec i s

/-- The `step` transaction under a configuration (40 R143). -/
def stepWith (q : Quirks) (s : State) : StepOutcome := stepBy q (execWith q) s

end Sys2Proof.Machine
end

