-- ==== Sys2Proof/Machine/Ports.lean ====
section
/-! DEFINITION. The host's transactions other than `step` (00 R6): construction, program load, font load, timer tick and the
display read. -/

namespace Sys2Proof.Machine

/-- Whether a load is accepted (70 R342, R343, R347, R348). -/
inductive LoadReply where
  | accepted
  | rejected
  deriving DecidableEq, Repr

/-! ## Construction (70 R340) -/

/-- Memory with a given byte at each of the first n addresses, in canonical form. -/
def Memory.ofBytes (f : Nat → Byte) (n : Nat) : Memory :=
  ((List.range n).map fun a => (a, f a)).filter fun c => !(c.2 == Memory.unlisted)

/-- The state at construction (10 R60, 70 R340): pc 0x200, empty stack, clear display, no font, `halted_fetch` and `fault` 0;
V, I, DT, ST and memory are free values (log entry 14). -/
def State.construction : State where
  v := Vector.ofFn Config.constructionV
  i := Config.constructionI
  pc := progOrigin
  dt := Config.constructionDT
  st := Config.constructionST
  stack := []
  disp := Display.clear
  mem := Memory.ofBytes Config.constructionByte memSize
  activeFont := none
  haltedFetch := false
  fault := false
  result := { status := .success, opcode := 0#16, displayMutated := false, soundWritten := false }
  freeIndex := 0

/-- A constructed engine: the configuration it was constructed with, which is a parameter of its whole run and no part of
its state (10 R53, R59), and its state. -/
structure Engine where
  quirks : Quirks
  state : State
  deriving DecidableEq, Repr

/-- The `config` port: an engine with a configuration, refused when `QUIRK_SUB_LEGACY` is true (10 R53, R54, 60 R308, 70
R340). -/
def construct (q : Quirks) : Host.Outcome Engine Fault Refusal :=
  if q.subLegacy then .refused .quirkSubLegacy else .next { quirks := q, state := State.construction }

/-! ## Font load (70 R347, R348) -/

/-- What the supplier's answer loads: bytes that are there and fit in the font region, and nothing otherwise. -/
def acceptedFont (answer : Option (List Byte)) : Option (List Byte) :=
  match answer with
  | some bs => if 1 ≤ bs.length ∧ bs.length ≤ Config.fontRegionSize then some bs else none
  | none => none

/-- `load_font(id)` with the supplier's answer (70 R347, R348). -/
def State.loadFontAnswer (s : State) (id : FontId) (answer : Option (List Byte)) : State × LoadReply :=
  match acceptedFont answer with
  | some bs => ({ s with mem := s.mem.writeAll Config.fontBase bs, activeFont := some id }, .accepted)
  | none => (s, .rejected)

/-- `load_font(id)`: the engine asks the font supplier (70 R347, 60 R328). -/
def State.loadFont (s : State) (id : FontId) : State × LoadReply := s.loadFontAnswer id (Config.fontData id)

/-! ## Program load (70 R342 to R346) -/

/-- The bytes of the active font, when one is active and its data is one `load_font` accepts (70 R344; log entry 17). -/
def activeFontBytes (font : Option FontId) : List Byte :=
  (acceptedFont (font.bind Config.fontData)).getD []

/-- Memory after an accepted load (70 R344): every byte 0, then the active font when it is re-applied, then the program. -/
def loadedMemory (font : Option FontId) (reapply : Bool) (buf : List Byte) : Memory :=
  let zeroed : Memory := []
  let withFont := if reapply then zeroed.writeAll Config.fontBase (activeFontBytes font) else zeroed
  withFont.writeAll progOrigin.toNat buf

/-- `load_program(buf, L)` with `REAPPLY_FONT` (70 R342 to R346). The display, `active_font` and `fault` are kept. -/
def State.loadProgram (s : State) (buf : List Byte) (reapply : Bool) : State × LoadReply :=
  if buf.length ≤ progMax then
    ({ s with
        v := Vector.replicate 16 0#8
        i := 0#16
        pc := progOrigin
        dt := 0#8
        st := 0#8
        stack := []
        mem := loadedMemory s.activeFont reapply buf
        haltedFetch := false }, .accepted)
  else (s, .rejected)

/-! ## Timers and display (60 R320, R325) -/

/-- A timer after a tick: one less, and 0 stays 0 (60 R320). -/
def tickTimer (b : Byte) : Byte := if b = 0#8 then 0#8 else b - 1#8

/-- `tick`: both timers in one transaction, in every state (60 R320, R321). -/
def State.tick (s : State) : State := { s with dt := tickTimer s.dt, st := tickTimer s.st }

/-- The `display` port: the grid as the host reads it (60 R325). -/
def State.readDisplay (s : State) : Display := s.disp

end Sys2Proof.Machine
end

