-- ==== Sys2Proof/Machine/Transactions.lean ====
section
/-! DEFINITION. The engine with its host: any sequence of transactions, each atomic (00 R6, R7; 20 R84). A run with timer
ticks, loads and display reads between its steps is a list of transactions (60 R321; log entry 13). The configuration is a
parameter of all of them (10 R53, R59). -/

namespace Sys2Proof.Machine

/-- One transaction at a port of the block (00 R6). -/
inductive Transaction where
  /-- One fetch-decode-execute cycle (40 R130). -/
  | step
  /-- A tick of the timer driver (60 R320). -/
  | tick
  /-- A program load with its `REAPPLY_FONT` (70 R342). -/
  | loadProgram (buf : List Byte) (reapply : Bool)
  /-- A font load (70 R347). -/
  | loadFont (id : FontId)
  /-- A read of the display (60 R325). -/
  | readDisplay
  deriving DecidableEq, Repr

/-- What the engine answers the host (00 R6). -/
inductive Reply where
  /-- The StepResult of a step (10 R56). -/
  | stepResult (r : StepResult)
  /-- The step raised the model fault and returns no StepResult (60 R307). -/
  | modelFault
  /-- The step is not enabled (40 R131). -/
  | noStep
  /-- The configuration is refused (10 R54). -/
  | refused
  /-- A tick has no reply. -/
  | none
  /-- A load is accepted or rejected. -/
  | load (r : LoadReply)
  /-- The grid. -/
  | display (d : Display)
  deriving DecidableEq, Repr

/-- The state a step transaction leaves and its reply: the model fault sets `fault` and leaves the pc advanced (60 R307), and
a step that is not enabled changes nothing (40 R131). -/
def stepTransaction (q : Quirks) (s : State) : State × Reply :=
  match stepWith q s with
  | .next t => (t, .stepResult t.result)
  | .fault .memoryOutOfRange => (s.modelFaulted, .modelFault)
  | .fault .stuckAfterModelFault => (s, .noStep)
  | .fault .stuckAfterFetchFailed => (s, .noStep)
  | .refused _ => (s, .refused)

/-- One transaction: the state it leaves and its reply. Ticks and loads are allowed in every state (60 R321, 93 I13, I14). -/
def transact (q : Quirks) (tr : Transaction) (s : State) : State × Reply :=
  match tr with
  | .step => stepTransaction q s
  | .tick => (s.tick, .none)
  | .loadProgram buf reapply =>
    let r := s.loadProgram buf reapply
    (r.1, .load r.2)
  | .loadFont id =>
    let r := s.loadFont id
    (r.1, .load r.2)
  | .readDisplay => (s, .display s.readDisplay)

/-- The state a sequence of transactions leaves. -/
def runTransactions (q : Quirks) : List Transaction → State → State
  | [], s => s
  | tr :: trs, s => runTransactions q trs (transact q tr s).1

/-- One transaction of a constructed engine, under the configuration of its construction. -/
def Engine.transact (tr : Transaction) (e : Engine) : Engine × Reply :=
  let r := Sys2Proof.Machine.transact e.quirks tr e.state
  ({ e with state := r.1 }, r.2)

/-- A constructed engine after a sequence of transactions. -/
def Engine.run : List Transaction → Engine → Engine
  | [], e => e
  | tr :: trs, e => Engine.run trs (Engine.transact tr e).1

end Sys2Proof.Machine
end

