-- ==== Sys2Proof/Safety.lean ====
section
/-! DEFINITION. The terms claims use: what a state keeps, which parts a step changes, the classes of opcodes and
instructions the rules speak of, the sprite as a set of pixels, and the end of a run. -/

namespace Sys2Proof

/-! ## Classes of opcodes and instructions -/

/-- The invalid encodings (30 R112). -/
def invalidWord (op : Word) : Bool :=
  (opGroup op == 0x8#4 && invalidAluNibble (opN op)) || (opGroup op == 0xE#4 && invalidKeyByte (opKK op))
    || (opGroup op == 0xF#4 && invalidMiscByte (opKK op))

/-- The reserved encodings (30 R113). -/
def reservedWord (op : Word) : Bool :=
  (opGroup op == 0x0#4 && !(op == 0x00E0#16 || op == 0x00EE#16))
    || (opGroup op == 0xE#4 && (opKK op == 0x9E#8 || opKK op == 0xA1#8)) || (opGroup op == 0xF#4 && opKK op == 0x0A#8)

/-- The instructions that write VF as a flag (10 R32). -/
def Instr.isFlagWriter : Instr → Bool
  | .addReg _ _ | .sub _ _ | .shr _ _ | .subn _ _ | .shl _ _ | .drw _ _ _ => true
  | _ => false

/-- The registers an instruction names as its destination (10 R33). -/
def Instr.isDestination : Instr → Reg → Bool
  | .ldImm x _, r | .addImm x _, r | .rnd x _, r | .ldFromDt x, r => r == x
  | .ldReg x _, r | .orReg x _, r | .andReg x _, r | .xorReg x _, r | .addReg x _, r => r == x
  | .sub x _, r | .shr x _, r | .subn x _, r | .shl x _, r => r == x
  | .ldRegs x, r => decide (r ≤ x)
  | _, _ => false

/-- The instructions that may write I (10 R38). -/
def Instr.mayWriteI : Instr → Bool
  | .ldI _ | .addI _ | .ldF _ | .stRegs _ | .ldRegs _ => true
  | _ => false

/-- The instructions that may write memory (20 R72). -/
def Instr.mayWriteMem : Instr → Bool
  | .ldB _ | .stRegs _ => true
  | _ => false

/-- The instructions that reach the return stack (10 R43). -/
def Instr.mayWriteStack : Instr → Bool
  | .call _ | .ret => true
  | _ => false

/-- The instructions that write the display (10 R48). -/
def Instr.mayWriteDisp : Instr → Bool
  | .cls | .drw _ _ _ => true
  | _ => false

/-- The instructions that write the pc beyond the advance of the fetch (41_control_flow.md). -/
def Instr.mayWritePc : Instr → Bool
  | .ret | .jp _ | .call _ | .seImm _ _ | .sneImm _ _ | .seReg _ _ _ | .sneReg _ _ _ | .jpV0 _ => true
  | _ => false

/-- The instructions a configuration changes, but for `SUB`, whose legacy setting is refused (10 R52). -/
def Instr.readsQuirks : Instr → Bool
  | .shr _ _ | .shl _ _ | .jpV0 _ | .stRegs _ | .ldRegs _ => true
  | _ => false

/-- `CALL`. -/
def Instr.isCall : Instr → Bool
  | .call _ => true
  | _ => false

/-- `LD ST, Vx`. -/
def Instr.isLdSt : Instr → Bool
  | .ldSt _ => true
  | _ => false

/-- `LD DT, Vx`. -/
def Instr.isLdDt : Instr → Bool
  | .ldDt _ => true
  | _ => false

end Sys2Proof

namespace Sys2Proof.Machine

/-! ## Parts of the state and frames -/

/-- The parts of the state (10 R59, and the model's own two fields). -/
inductive Part where
  | v
  | i
  | pc
  | dt
  | st
  | stack
  | disp
  | mem
  | activeFont
  | haltedFetch
  | fault
  | result
  | freeIndex
  deriving DecidableEq, Repr

/-- Two states agree on a part: memory byte by byte, registers one by one, the display pixel by pixel. -/
def Part.Same (s t : State) : Part → Prop
  | .v => ∀ r : Reg, t.getV r = s.getV r
  | .i => t.i = s.i
  | .pc => t.pc = s.pc
  | .dt => t.dt = s.dt
  | .st => t.st = s.st
  | .stack => t.stack = s.stack
  | .disp => ∀ c r : Nat, Display.pixel t.disp c r = Display.pixel s.disp c r
  | .mem => ∀ a : Nat, t.mem.read a = s.mem.read a
  | .activeFont => t.activeFont = s.activeFont
  | .haltedFetch => t.haltedFetch = s.haltedFetch
  | .fault => t.fault = s.fault
  | .result => t.result = s.result
  | .freeIndex => t.freeIndex = s.freeIndex

/-- Nothing but the listed parts changes from `s` to `t`. -/
def OnlyChanges (parts : List Part) (s t : State) : Prop := ∀ p : Part, p ∉ parts → p.Same s t

/-- No register but the listed ones changes from `s` to `t`. -/
def OnlyRegisters (rs : List Reg) (s t : State) : Prop := ∀ r : Reg, r ∉ rs → t.getV r = s.getV r

/-- Every byte outside the `n` bytes from address `a` reads as before. -/
def OnlyBytes (a n : Nat) (s t : State) : Prop := ∀ b : Nat, (b < a ∨ a + n ≤ b) → t.mem.read b = s.mem.read b

/-- The outcome with its next state changed by a function. -/
def mapNext (f : State → State) : StepOutcome → StepOutcome
  | .next t => .next (f t)
  | .fault r => .fault r
  | .refused r => .refused r

/-! ## Invariants -/

/-- What every transaction keeps: memory in canonical form, at most 16 stack entries (10 R42, R44), never both stopping bits,
and both flags 0 in the record of a failure (10 R57). -/
abbrev State.Inv (s : State) : Prop :=
  s.mem.wf = true ∧ s.stack.length ≤ stackDepth ∧ (s.haltedFetch && s.fault) = false ∧
    (s.result.status ≠ .success → s.result.displayMutated = false ∧ s.result.soundWritten = false)

/-- The bounds of 10 R37: the pc never comes near a value that wraps, and every stacked return address is at most 0x1000. -/
abbrev State.PcBound (s : State) : Prop :=
  s.pc.toNat ≤ 0x1100 ∧ (s.haltedFetch = false → s.pc.toNat ≤ 0x10FE) ∧ ∀ w ∈ s.stack, w.toNat ≤ 0x1000

/-- A step is enabled (40 R131), under a configuration that is not refused; the host's run's never is. -/
abbrev State.Enabled (s : State) : Prop := s.fault = false ∧ s.haltedFetch = false

/-! ## The sprite as a set of pixels (44 R253, R255, R256) -/

/-- The sprite of DRW covers column c and row r with a bit 1: the origin taken modulo the grid, row j at I + j, the most
significant bit leftmost. Only c < 64 and r < 32 name a pixel of the grid. -/
def spritePixel (s : State) (x y : Reg) (n : Nibble) (c r : Nat) : Bool :=
  let ox := (s.getV x).toNat % 64
  let oy := (s.getV y).toNat % 32
  decide (ox ≤ c) && decide (c < ox + 8) && decide (oy ≤ r) && decide (r < oy + n.toNat)
    && (s.mem.read (s.i.toNat + (r - oy))).getLsbD (7 - (c - ox))

/-- The sprite covers a pixel of the grid that is on (44 R258). -/
def SpriteHits (s : State) (x y : Reg) (n : Nibble) : Prop :=
  ∃ c r : Nat, c < 64 ∧ r < 32 ∧ Display.pixel s.disp c r = true ∧ spritePixel s x y n c r = true

/-! ## The return stack over several calls -/

/-- Pushes one after the other; none when one fails. -/
def pushAll : List Word → State → Option State
  | [], s => some s
  | w :: ws, s => (s.push w).bind (pushAll ws)

/-- Pops one after the other, with the entries in the order they come; none when one fails. -/
def popCount : Nat → State → Option (List Word × State)
  | 0, s => some ([], s)
  | n + 1, s => s.pop.bind fun p => (popCount n p.2).map fun q => (p.1 :: q.1, q.2)

/-! ## The end of a run (70 R367) -/

/-- What the host does after a failure status other than FetchFailed (40 R144, 92 D28). -/
inductive HostPolicy where
  | stopOnFailure
  | stepAgain
  deriving DecidableEq, Repr

/-- How a run ends (70 R367). -/
inductive RunEnd where
  | fetchFailed
  | failure (f : Status)
  | modelFault
  | haltLoop
  deriving DecidableEq, Repr

/-- The pc holds the address of a JP to that same address (70 R367). -/
def State.atHaltLoop (s : State) : Bool :=
  match s.fetch with
  | some op => op == wordNNN 0x1#4 (s.pc.setWidth 12)
  | none => false

/-- Whether and how a run ends at a state, or with its next step (70 R367): the first of the four. -/
def runEnd (q : Quirks) (policy : HostPolicy) (s : State) : Option RunEnd :=
  if s.fault then some .modelFault
  else if s.haltedFetch then some .fetchFailed
  else if s.atHaltLoop then some .haltLoop
  else
    match stepWith q s with
    | .fault _ => some .modelFault
    | .refused _ => none
    | .next t =>
      match t.result.status, policy with
      | .success, _ => none
      | .fetchFailed, _ => some .fetchFailed
      | f, .stopOnFailure => some (.failure f)
      | _, .stepAgain => none

end Sys2Proof.Machine
end

