-- ==== Sys2Proof/Certificates/Slice0/Obligations.lean ====
section
/-! DEFINITION. The statements for the provers. Where a statement speaks of `exec i s`, `s` is the state after the fetch (40
R143): its pc is the address of the instruction plus 2, and its StepResult starts as Success with both flags 0, so a frame
that keeps `result` says that the status is Success. `exec` and `step` run under the configuration of the host's run,
`execWith q` and `stepWith q` under any configuration `q`; `SubLegacyIsRefused` says that the first are the second at
`Config.quirks`. -/

open Sys2Proof Sys2Proof.Machine

/-! ## Encoding -/

/-- Every well-formed instruction, with every operand at every value, is the one its opcode decodes to (30 sections 1 to 3). The
words 00E0 and 00EE and the class of the 0xExss words are the spec's choices 92 D4 and D5. -/
def Obligations.DecodeOfEncodeIsTheInstruction : Prop :=
  ∀ i : Instr, i.wf = true → decode (encode i) = i

/-- Every one of the 65536 opcodes decodes to a well-formed instruction, and no bit of it is dropped (30 R111, R118). -/
def Obligations.EncodeOfDecodeIsTheOpcode : Prop :=
  ∀ op : Word, (decode op).wf = true ∧ encode (decode op) = op

/-- The decoder picks the row the opcode table picks: a row that takes the opcode, and no other row that takes it has as high
a priority (30 R118). -/
def Obligations.DecodePicksTheTableRow : Prop :=
  ∀ op : Word, (decode op).row.takes op = true ∧
    ∀ j : Instr, j.row.takes op = true → j.row = (decode op).row ∨ j.row.priority < (decode op).row.priority

/-- Words the spec writes out in its test vectors decode to the instructions it names (95 sections 1 to 3). That 00E0 is CLS
and 00EE is RET is the spec's choice 92 D4 (log entry 15), that E100 is invalid its choice 92 D5. -/
def Obligations.SpecWordsDecode : Prop :=
  decode 0x00E0#16 = .cls ∧ decode 0x00EE#16 = .ret ∧ decode 0x0123#16 = .sys 0x123#12 ∧
    decode 0x1234#16 = .jp 0x234#12 ∧ decode 0x3342#16 = .seImm 0x3#4 0x42#8 ∧
    decode 0x5127#16 = .seReg 0x1#4 0x2#4 0x7#4 ∧ decode 0x6A5C#16 = .ldImm 0xA#4 0x5C#8 ∧
    decode 0x8125#16 = .sub 0x1#4 0x2#4 ∧ decode 0x812F#16 = .invalid8 0x1#4 0x2#4 0xF#4 ∧
    decode 0xAABB#16 = .ldI 0xABB#12 ∧ decode 0xC30F#16 = .rnd 0x3#4 0x0F#8 ∧
    decode 0xD015#16 = .drw 0x0#4 0x1#4 0x5#4 ∧ decode 0xE1A1#16 = .sknp 0x1#4 ∧
    decode 0xE100#16 = .invalidE 0x1#4 0x00#8 ∧ decode 0xF033#16 = .ldB 0x0#4 ∧
    decode 0xF0FF#16 = .invalidF 0x0#4 0xFF#8

/-! ## The step -/

/-- The fetch (20 R78; 40 R132, R134): the two bytes at pc and pc+1, high byte first, read exactly when pc <= 4094. -/
def Obligations.FetchReadsTwoBytesBigEndian : Prop :=
  ∀ s : State,
    (s.pc.toNat ≤ 4094 →
      s.mem.readRange s.pc.toNat 2 = some [s.mem.read s.pc.toNat, s.mem.read (s.pc.toNat + 1)] ∧
      s.fetch = some (s.mem.read s.pc.toNat ++ s.mem.read (s.pc.toNat + 1))) ∧
    (4095 ≤ s.pc.toNat → s.mem.readRange s.pc.toNat 2 = none ∧ s.fetch = none)

/-- A step runs the decoded instruction (40 R137, R139, R143): in the state after the advance of the pc, with the record
started as Success, the raw opcode and both flags 0; under every configuration that is not refused. -/
def Obligations.StepRunsTheDecodedInstruction : Prop :=
  ∀ (s : State) (op : Word), s.Enabled → s.fetch = some op →
    step s = exec (decode op) (s.beginCycle op) ∧
    (∀ q : Quirks, q.subLegacy = false → stepWith q s = execWith q (decode op) (s.beginCycle op)) ∧
    (s.beginCycle op).pc = s.pc + 2#16 ∧
    (s.beginCycle op).result =
      { status := .success, opcode := op, displayMutated := false, soundWritten := false } ∧
    OnlyChanges [.pc, .result] s (s.beginCycle op)

/-- A failed fetch (40 R133): the pc advanced, `halted_fetch` set, FetchFailed with both flags 0, nothing executed and nothing
else changed. The opcode field of the record is left open, and `freeIndex` is the model's own counter (log entries 2, 4). -/
def Obligations.FetchFailureHaltsTheEngine : Prop :=
  ∀ s : State, s.Enabled → 4095 ≤ s.pc.toNat →
    ∃ t : State, step s = .next t ∧ t.pc = s.pc + 2#16 ∧ t.haltedFetch = true ∧ t.result.status = .fetchFailed ∧
      t.result.displayMutated = false ∧ t.result.soundWritten = false ∧
      OnlyChanges [.pc, .haltedFetch, .result, .freeIndex] s t

/-- No step exists while `halted_fetch` or `fault` is 1, and the transaction changes nothing. Rests on the spec's choices 92
D6 and D10; the names of the two stops are the model's (log entry 12). -/
def Obligations.NoStepWhileHaltedOrFaulted : Prop :=
  ∀ s : State,
    (s.fault = true → step s = .fault .stuckAfterModelFault ∧
      ∀ q : Quirks, q.subLegacy = false → transact q .step s = (s, .noStep)) ∧
    (s.fault = false → s.haltedFetch = true → step s = .fault .stuckAfterFetchFailed ∧
      ∀ q : Quirks, q.subLegacy = false → transact q .step s = (s, .noStep))

/-- An instruction ends in one of three ways (40 R138): it completes with Success, it sets a failure status and writes
nothing (the record alone changes, its flags 0), or it raises the model fault. -/
def Obligations.InstructionEndsInOneOfThreeWays : Prop :=
  ∀ (i : Instr) (s : State), s.result.status = .success →
    (∃ t : State, exec i s = .next t ∧ t.result.status = .success) ∨
    (∃ f : Status, f ≠ .success ∧ exec i s =
      .next { s with result := { s.result with status := f, displayMutated := false, soundWritten := false } }) ∨
    exec i s = .fault .memoryOutOfRange

/-- What raises each failure status, and that a failing step records the opcode and changes nothing but the pc, by the
advance of 2 (60 R301 to R304). The word 00EE and the class of the 0xExss words are the spec's choices 92 D4 and D5. A stack
of more than 16 entries is reached by no run (`StepKeepsInv`). -/
def Obligations.StatusOfAStep : Prop :=
  ∀ (s t : State) (op : Word), s.Enabled → s.stack.length ≤ 16 → s.fetch = some op → step s = .next t →
    (t.result.status = .instructionInvalid ↔ invalidWord op = true) ∧
    (t.result.status = .instructionNotImplemented ↔ reservedWord op = true) ∧
    (t.result.status = .stackFull ↔ opGroup op = 0x2#4 ∧ s.stack.length = 16) ∧
    (t.result.status = .stackEmpty ↔ op = 0x00EE#16 ∧ s.stack = []) ∧
    t.result.status ≠ .fetchFailed ∧
    (t.result.status ≠ .success →
      t.pc = s.pc + 2#16 ∧ t.result.opcode = op ∧ OnlyChanges [.pc, .result] s t)

/-- The record of a step (40 R136, R142): the raw opcode whatever the status, display_mutated for CLS and DRW alone,
sound_written for LD ST, Vx alone. -/
def Obligations.ResultRecordOfAStep : Prop :=
  ∀ (s t : State) (op : Word), s.Enabled → s.fetch = some op → step s = .next t →
    t.result.opcode = op ∧
    (t.result.displayMutated = true ↔ (decode op).mayWriteDisp = true) ∧
    (t.result.soundWritten = true ↔ (decode op).isLdSt = true)

/-- The pc after a step (40 R135): 2 further whatever the status, unless a control-flow instruction that succeeds writes it. -/
def Obligations.EveryStepAdvancesThePc : Prop :=
  ∀ (s t : State) (op : Word), s.Enabled → s.fetch = some op → step s = .next t →
    ((decode op).mayWritePc = false → t.pc = s.pc + 2#16) ∧
    (t.result.status ≠ .success → t.pc = s.pc + 2#16)

/-- After a step with any status but FetchFailed the engine is enabled again. Rests on the spec's choice 92 D28. -/
def Obligations.EngineStaysEnabledAfterAStep : Prop :=
  ∀ (s t : State), s.Enabled → s.pc.toNat ≤ 4094 → step s = .next t → t.Enabled

/-- The model fault (20 R77, 60 R307, the spec's choice 92 D6): the step transaction returns no StepResult, sets `fault`,
leaves the pc advanced, and changes nothing else. -/
def Obligations.ModelFaultWritesNothing : Prop :=
  ∀ (q : Quirks) (s : State), s.Enabled → stepWith q s = .fault .memoryOutOfRange →
    ∃ t : State, transact q .step s = (t, .modelFault) ∧ t.fault = true ∧ t.pc = s.pc + 2#16 ∧
      OnlyChanges [.pc, .fault] s t

/-! ## The reserved and the invalid rows -/

/-- SYS, SKP, SKNP and LD Vx, K (41 R152; 45 R283, R284, R285): their words, and that each reports InstructionNotImplemented
with the flags 0 and nothing else changed; no skip and no wait. The two words that are not SYS are the spec's choice 92 D4, the
keypad instructions' status its choice D37. -/
def Obligations.ReservedRowsReportNotImplemented : Prop :=
  (∀ nnn : Addr, nnn ≠ 0x0E0#12 → nnn ≠ 0x0EE#12 → decode (wordNNN 0x0#4 nnn) = .sys nnn) ∧
  (∀ x : Reg, decode (wordXKK 0xE#4 x 0x9E#8) = .skp x ∧ decode (wordXKK 0xE#4 x 0xA1#8) = .sknp x ∧
    decode (wordXKK 0xF#4 x 0x0A#8) = .ldK x) ∧
  ∀ (nnn : Addr) (x : Reg) (s : State), ∀ i ∈ [Instr.sys nnn, .skp x, .sknp x, .ldK x],
    ∃ t : State, exec i s = .next t ∧ t.result.status = .instructionNotImplemented ∧
      t.result.opcode = s.result.opcode ∧ t.result.displayMutated = false ∧ t.result.soundWritten = false ∧
      OnlyChanges [.result] s t

/-- The invalid rows (30 R112; 42 R192): exactly the invalid encodings decode to them, and each reports InstructionInvalid with
the flags 0 and nothing else changed. The class of the 0xExss words is the spec's choice 92 D5. -/
def Obligations.InvalidRowsReportInvalid : Prop :=
  (∀ op : Word, invalidWord op = true ↔
    decode op = .invalid8 (opX op) (opY op) (opN op) ∨ decode op = .invalidE (opX op) (opKK op) ∨
      decode op = .invalidF (opX op) (opKK op)) ∧
  ∀ (x y : Reg) (n : Nibble) (ss : Byte) (s : State), ∀ i ∈ [Instr.invalid8 x y n, .invalidE x ss, .invalidF x ss],
    ∃ t : State, exec i s = .next t ∧ t.result.status = .instructionInvalid ∧
      t.result.opcode = s.result.opcode ∧ t.result.displayMutated = false ∧ t.result.soundWritten = false ∧
      OnlyChanges [.result] s t

/-! ## Control flow -/

/-- JP nnn (41 R154). -/
def Obligations.JpJumps : Prop :=
  ∀ (nnn : Addr) (s : State), decode (wordNNN 0x1#4 nnn) = .jp nnn ∧
    ∃ t : State, exec (.jp nnn) s = .next t ∧ t.pc = nnn.setWidth 16 ∧ OnlyChanges [.pc] s t

/-- A JP to its own address is an endless loop (41 R154; 70 R367, the spec's choice 92 D38): each step is Success and changes
nothing but the record. -/
def Obligations.HaltLoopStaysPut : Prop :=
  ∀ s : State, s.Enabled → s.atHaltLoop = true →
    ∃ t : State, step s = .next t ∧ t.result.status = .success ∧ OnlyChanges [.result] s t ∧ t.atHaltLoop = true

/-- CALL nnn (41 R155): with fewer than 16 entries the post-fetch pc is pushed and the address becomes the pc; with 16, StackFull
and the stack and pc kept. -/
def Obligations.CallPushesAndJumps : Prop :=
  ∀ (nnn : Addr) (s : State), decode (wordNNN 0x2#4 nnn) = .call nnn ∧
    (s.stack.length < 16 → ∃ t : State, exec (.call nnn) s = .next t ∧ t.stack = s.stack ++ [s.pc] ∧
      t.pc = nnn.setWidth 16 ∧ OnlyChanges [.stack, .pc] s t) ∧
    (s.stack.length = 16 → ∃ t : State, exec (.call nnn) s = .next t ∧ t.result.status = .stackFull ∧
      t.result.opcode = s.result.opcode ∧ t.result.displayMutated = false ∧ t.result.soundWritten = false ∧
      OnlyChanges [.result] s t)

/-- RET (41 R153): the last entry leaves the stack and becomes the pc; with an empty stack, StackEmpty and the stack and pc
kept. The word 00EE is the spec's choice 92 D4. -/
def Obligations.RetPopsIntoThePc : Prop :=
  decode 0x00EE#16 = .ret ∧
  (∀ (s : State) (w : Word) (ws : List Word), s.stack = ws ++ [w] →
    ∃ t : State, exec .ret s = .next t ∧ t.stack = ws ∧ t.pc = w ∧ OnlyChanges [.stack, .pc] s t) ∧
  ∀ s : State, s.stack = [] → ∃ t : State, exec .ret s = .next t ∧ t.result.status = .stackEmpty ∧
    t.result.opcode = s.result.opcode ∧ t.result.displayMutated = false ∧ t.result.soundWritten = false ∧
    OnlyChanges [.result] s t

/-- A call and a later return, with the stack between them as the call left it, come back to the instruction after the call
with the stack as before (41 R153, R155, R161). -/
def Obligations.CallThenRetComesBack : Prop :=
  ∀ (nnn : Addr) (s t u : State), s.stack.length < 16 → exec (.call nnn) s = .next t → u.stack = t.stack →
    ∃ w : State, exec .ret u = .next w ∧ w.pc = s.pc ∧ w.stack = s.stack ∧ OnlyChanges [.stack, .pc] u w

/-- SE Vx, kk and SNE Vx, kk (41 R156, R157). -/
def Obligations.SkipsOnAnImmediate : Prop :=
  ∀ (x : Reg) (kk : Byte) (s : State),
    decode (wordXKK 0x3#4 x kk) = .seImm x kk ∧ decode (wordXKK 0x4#4 x kk) = .sneImm x kk ∧
    (∃ t : State, exec (.seImm x kk) s = .next t ∧
      t.pc = (if s.getV x = kk then s.pc + 2#16 else s.pc) ∧ OnlyChanges [.pc] s t) ∧
    ∃ t : State, exec (.sneImm x kk) s = .next t ∧
      t.pc = (if s.getV x = kk then s.pc else s.pc + 2#16) ∧ OnlyChanges [.pc] s t

/-- SE Vx, Vy and SNE Vx, Vy, for every value of the ignored nibble (41 R158, R159; 30 R110). -/
def Obligations.SkipsOnTwoRegisters : Prop :=
  ∀ (x y : Reg) (z : Nibble) (s : State),
    decode (wordXYN 0x5#4 x y z) = .seReg x y z ∧ decode (wordXYN 0x9#4 x y z) = .sneReg x y z ∧
    (∃ t : State, exec (.seReg x y z) s = .next t ∧
      t.pc = (if s.getV x = s.getV y then s.pc + 2#16 else s.pc) ∧ OnlyChanges [.pc] s t) ∧
    ∃ t : State, exec (.sneReg x y z) s = .next t ∧
      t.pc = (if s.getV x = s.getV y then s.pc else s.pc + 2#16) ∧ OnlyChanges [.pc] s t

/-- JP V0, nnn (41 R160): the address plus V0 in legacy mode, plus V[nnn[11:8]] in modern mode, a sum that never wraps; under every configuration. -/
def Obligations.JpV0AddsTheRegister : Prop :=
  ∀ (nnn : Addr) (q : Quirks) (s : State), decode (wordNNN 0xB#4 nnn) = .jpV0 nnn ∧
    ∃ t : State, execWith q (.jpV0 nnn) s = .next t ∧ (q = Config.quirks → exec (.jpV0 nnn) s = .next t) ∧
      t.pc.toNat = nnn.toNat +
        (if q.jumpV0 = true then (s.getV 0x0#4).toNat else (s.getV (nnn.extractLsb' 8 4)).toNat) ∧
      t.pc.toNat ≤ 0x10FE ∧ OnlyChanges [.pc] s t

/-! ## Register loads and arithmetic -/

/-- LD Vx, kk and ADD Vx, kk (42 R181, R182): no flag; VF changes only as the destination. -/
def Obligations.LoadAndAddImmediate : Prop :=
  ∀ (x : Reg) (kk : Byte) (s : State),
    decode (wordXKK 0x6#4 x kk) = .ldImm x kk ∧ decode (wordXKK 0x7#4 x kk) = .addImm x kk ∧
    (∃ t : State, exec (.ldImm x kk) s = .next t ∧ t.getV x = kk ∧ OnlyRegisters [x] s t ∧ OnlyChanges [.v] s t) ∧
    ∃ t : State, exec (.addImm x kk) s = .next t ∧ (t.getV x).toNat = ((s.getV x).toNat + kk.toNat) % 256 ∧
      OnlyRegisters [x] s t ∧ OnlyChanges [.v] s t

/-- LD Vx, Vy, OR, AND and XOR (42 R183 to R186): no flag; VF changes only as the destination. -/
def Obligations.CopyAndLogic : Prop :=
  ∀ (x y : Reg) (s : State),
    decode (wordXYN 0x8#4 x y 0x0#4) = .ldReg x y ∧ decode (wordXYN 0x8#4 x y 0x1#4) = .orReg x y ∧
    decode (wordXYN 0x8#4 x y 0x2#4) = .andReg x y ∧ decode (wordXYN 0x8#4 x y 0x3#4) = .xorReg x y ∧
    (∃ t : State, exec (.ldReg x y) s = .next t ∧ t.getV x = s.getV y ∧ OnlyRegisters [x] s t ∧ OnlyChanges [.v] s t) ∧
    (∃ t : State, exec (.orReg x y) s = .next t ∧ t.getV x = s.getV x ||| s.getV y ∧ OnlyRegisters [x] s t ∧
      OnlyChanges [.v] s t) ∧
    (∃ t : State, exec (.andReg x y) s = .next t ∧ t.getV x = s.getV x &&& s.getV y ∧ OnlyRegisters [x] s t ∧
      OnlyChanges [.v] s t) ∧
    ∃ t : State, exec (.xorReg x y) s = .next t ∧ t.getV x = s.getV x ^^^ s.getV y ∧ OnlyRegisters [x] s t ∧
      OnlyChanges [.v] s t

/-- ADD Vx, Vy (42 R187): the sum mod 2^8, then VF = carry, also when x is 15. -/
def Obligations.AddWritesTheCarry : Prop :=
  ∀ (x y : Reg) (s : State), decode (wordXYN 0x8#4 x y 0x4#4) = .addReg x y ∧
    ∃ t : State, exec (.addReg x y) s = .next t ∧
      (x ≠ 0xF#4 → (t.getV x).toNat = ((s.getV x).toNat + (s.getV y).toNat) % 256) ∧
      t.getV 0xF#4 = (if (s.getV x).toNat + (s.getV y).toNat > 0xFF then 1#8 else 0#8) ∧
      OnlyRegisters [x, 0xF#4] s t ∧ OnlyChanges [.v] s t

/-- SUB and SUBN (42 R188, R190): the difference mod 2^8, then VF = not-borrow, also when x is 15. That SUB has this one
behaviour, `QUIRK_SUB_LEGACY` being false, is the spec's choice 92 D2 (log entry 6). -/
def Obligations.SubtractsWriteTheNotBorrow : Prop :=
  ∀ (x y : Reg) (s : State),
    decode (wordXYN 0x8#4 x y 0x5#4) = .sub x y ∧ decode (wordXYN 0x8#4 x y 0x7#4) = .subn x y ∧
    (∃ t : State, exec (.sub x y) s = .next t ∧
      (x ≠ 0xF#4 → (t.getV x).toNat = ((s.getV x).toNat + 256 - (s.getV y).toNat) % 256) ∧
      t.getV 0xF#4 = (if (s.getV x).toNat ≥ (s.getV y).toNat then 1#8 else 0#8) ∧
      OnlyRegisters [x, 0xF#4] s t ∧ OnlyChanges [.v] s t) ∧
    ∃ t : State, exec (.subn x y) s = .next t ∧
      (x ≠ 0xF#4 → (t.getV x).toNat = ((s.getV y).toNat + 256 - (s.getV x).toNat) % 256) ∧
      t.getV 0xF#4 = (if (s.getV y).toNat ≥ (s.getV x).toNat then 1#8 else 0#8) ∧
      OnlyRegisters [x, 0xF#4] s t ∧ OnlyChanges [.v] s t

/-- SHR and SHL (42 R189, R191): the source is V[y] in legacy mode and V[x] in modern mode, the result is the source halved or
doubled mod 2^8, then VF = the bit shifted out, also when x is 15. That V[y] is not written is the spec's choice 92 D33. -/
def Obligations.ShiftsWriteTheBitOut : Prop :=
  ∀ (x y : Reg) (q : Quirks) (s : State),
    decode (wordXYN 0x8#4 x y 0x6#4) = .shr x y ∧ decode (wordXYN 0x8#4 x y 0xE#4) = .shl x y ∧
    ∃ src : Byte, src = (if q.shiftFromY = true then s.getV y else s.getV x) ∧
      (∃ t : State, execWith q (.shr x y) s = .next t ∧ (q = Config.quirks → exec (.shr x y) s = .next t) ∧
        (x ≠ 0xF#4 → (t.getV x).toNat = src.toNat / 2) ∧
        (t.getV 0xF#4).toNat = src.toNat % 2 ∧ OnlyRegisters [x, 0xF#4] s t ∧ OnlyChanges [.v] s t) ∧
      ∃ t : State, execWith q (.shl x y) s = .next t ∧ (q = Config.quirks → exec (.shl x y) s = .next t) ∧
        (x ≠ 0xF#4 → (t.getV x).toNat = 2 * src.toNat % 256) ∧
        (t.getV 0xF#4).toNat = src.toNat / 128 ∧ OnlyRegisters [x, 0xF#4] s t ∧ OnlyChanges [.v] s t

/-- RND Vx, kk (42 R193): the drawn byte under the mask, whatever byte is drawn; with mask 0 the result is 0. The counter of
draws is the model's own (log entries 2, 3). -/
def Obligations.RndMasksTheDrawnByte : Prop :=
  ∀ (x : Reg) (kk : Byte) (s : State), decode (wordXKK 0xC#4 x kk) = .rnd x kk ∧
    ∃ t : State, exec (.rnd x kk) s = .next t ∧ t.getV x = Config.rngByte s.freeIndex &&& kk ∧
      (kk = 0#8 → t.getV x = 0#8) ∧ t.freeIndex = s.freeIndex + 1 ∧
      OnlyRegisters [x] s t ∧ OnlyChanges [.v, .freeIndex] s t

/-! ## The index register and the transfers -/

/-- LD I, nnn (43 R221). -/
def Obligations.LdILoadsTheAddress : Prop :=
  ∀ (nnn : Addr) (s : State), decode (wordNNN 0xA#4 nnn) = .ldI nnn ∧
    ∃ t : State, exec (.ldI nnn) s = .next t ∧ t.i.toNat = nnn.toNat ∧ OnlyChanges [.i] s t

/-- ADD I, Vx (43 R222): no flag, no access. The wrap at 2^16 is the spec's choice 92 D8. -/
def Obligations.AddIWraps : Prop :=
  ∀ (x : Reg) (s : State), decode (wordXKK 0xF#4 x 0x1E#8) = .addI x ∧
    ∃ t : State, exec (.addI x) s = .next t ∧ t.i.toNat = (s.i.toNat + (s.getV x).toNat) % 65536 ∧
      OnlyChanges [.i] s t

/-- LD F, Vx (43 R223): the glyph of the low nibble, for every FONT_BASE the spec allows. -/
def Obligations.LdFPointsAtTheGlyph : Prop :=
  ∀ (x : Reg) (s : State), decode (wordXKK 0xF#4 x 0x29#8) = .ldF x ∧
    ∃ t : State, exec (.ldF x) s = .next t ∧ t.i.toNat = Config.fontBase + 5 * ((s.getV x).toNat % 16) ∧
      OnlyChanges [.i] s t

/-- LD B, Vx (43 R224): the three digits at I, I+1, I+2 and no other byte, or the model fault when I + 3 > 4096. Memory is in
canonical form in every reachable state (`StepKeepsInv`). -/
def Obligations.LdBStoresTheDigits : Prop :=
  ∀ (x : Reg) (s : State), s.mem.wf = true →
    decode (wordXKK 0xF#4 x 0x33#8) = .ldB x ∧
    (s.i.toNat + 3 ≤ 4096 → ∃ t : State, exec (.ldB x) s = .next t ∧
      (t.mem.read s.i.toNat).toNat = (s.getV x).toNat / 100 ∧
      (t.mem.read (s.i.toNat + 1)).toNat = (s.getV x).toNat / 10 % 10 ∧
      (t.mem.read (s.i.toNat + 2)).toNat = (s.getV x).toNat % 10 ∧
      OnlyBytes s.i.toNat 3 s t ∧ OnlyChanges [.mem] s t) ∧
    (4096 < s.i.toNat + 3 → exec (.ldB x) s = .fault .memoryOutOfRange)

/-- LD [I], Vx (43 R225): V0..Vx at I .. I+x and no other byte, I advanced by x + 1 in legacy mode only, or the model fault when
the range leaves memory. The increment's timing and wrap are the spec's choice 92 D34, the fault its choice D6. -/
def Obligations.StRegsStoresTheRegisters : Prop :=
  ∀ (x : Reg) (q : Quirks) (s : State), s.mem.wf = true →
    decode (wordXKK 0xF#4 x 0x55#8) = .stRegs x ∧
    (s.i.toNat + x.toNat + 1 ≤ 4096 → ∃ t : State, execWith q (.stRegs x) s = .next t ∧
      (q = Config.quirks → exec (.stRegs x) s = .next t) ∧
      (∀ r : Reg, r ≤ x → t.mem.read (s.i.toNat + r.toNat) = s.getV r) ∧
      t.i.toNat = (if q.loadStoreInc = true then (s.i.toNat + x.toNat + 1) % 65536 else s.i.toNat) ∧
      OnlyBytes s.i.toNat (x.toNat + 1) s t ∧ OnlyChanges [.mem, .i] s t) ∧
    (4096 < s.i.toNat + x.toNat + 1 → execWith q (.stRegs x) s = .fault .memoryOutOfRange ∧
      exec (.stRegs x) s = .fault .memoryOutOfRange)

/-- LD Vx, [I] (43 R226): V0..Vx from the bytes at I .. I+x and no other register, I advanced by x + 1 in legacy mode only, or
the model fault when the range leaves memory. The increment is the spec's choice 92 D34, the fault its choice D6. -/
def Obligations.LdRegsLoadsTheRegisters : Prop :=
  ∀ (x : Reg) (q : Quirks) (s : State),
    decode (wordXKK 0xF#4 x 0x65#8) = .ldRegs x ∧
    (s.i.toNat + x.toNat + 1 ≤ 4096 → ∃ t : State, execWith q (.ldRegs x) s = .next t ∧
      (q = Config.quirks → exec (.ldRegs x) s = .next t) ∧
      (∀ r : Reg, t.getV r = if r ≤ x then s.mem.read (s.i.toNat + r.toNat) else s.getV r) ∧
      t.i.toNat = (if q.loadStoreInc = true then (s.i.toNat + x.toNat + 1) % 65536 else s.i.toNat) ∧
      OnlyChanges [.v, .i] s t) ∧
    (4096 < s.i.toNat + x.toNat + 1 → execWith q (.ldRegs x) s = .fault .memoryOutOfRange ∧
      exec (.ldRegs x) s = .fault .memoryOutOfRange)

/-- A word stored by LD [I], Vx is the word a later step fetches, the byte at the lower address the high byte (20 R80, R89, the
spec's choice 92 D20). -/
def Obligations.StoredWordIsFetched : Prop :=
  ∀ (x r : Reg) (s t u : State), s.mem.wf = true → r < x → exec (.stRegs x) s = .next t →
    u.mem = t.mem → u.pc.toNat = s.i.toNat + r.toNat →
    u.fetch = some (s.getV r ++ s.getV (r + 1#4))

/-! ## The display -/

/-- CLS (44 R251): every pixel 0, display_mutated 1, whatever the display held. The word 00E0 is the spec's choice 92 D4. -/
def Obligations.ClsClearsEveryPixel : Prop :=
  decode 0x00E0#16 = .cls ∧
  ∀ s : State, ∃ t : State, exec .cls s = .next t ∧
    (∀ c r : Nat, c < 64 → r < 32 → Display.pixel t.disp c r = false) ∧
    t.result = { s.result with displayMutated := true } ∧ OnlyChanges [.disp, .result] s t

/-- DRW Vx, Vy, n (44 R253, R255 to R259): when its n bytes are in memory, every pixel of the grid is XORed with the clipped
sprite, VF is 1 exactly when the sprite meets a pixel that is on, display_mutated is 1, and nothing else changes. -/
def Obligations.DrwXorsTheClippedSprite : Prop :=
  ∀ (x y : Reg) (n : Nibble) (s : State), s.i.toNat + n.toNat ≤ 4096 →
    decode (wordXYN 0xD#4 x y n) = .drw x y n ∧
    ∃ t : State, exec (.drw x y n) s = .next t ∧
      (∀ c r : Nat, c < 64 → r < 32 →
        Display.pixel t.disp c r = (Display.pixel s.disp c r ^^ spritePixel s x y n c r)) ∧
      (SpriteHits s x y n → t.getV 0xF#4 = 1#8) ∧ (¬SpriteHits s x y n → t.getV 0xF#4 = 0#8) ∧
      t.result = { s.result with displayMutated := true } ∧
      OnlyRegisters [0xF#4] s t ∧ OnlyChanges [.v, .disp, .result] s t

/-- DRW of a sprite of at least one row whose bytes leave memory is the model fault, clipped rows included; a sprite of no
rows makes no access wherever I points, changes no pixel and sets VF to 0. Rests on the spec's choices 92 D6, D25, D26. -/
def Obligations.DrwRangeAndEmptySprite : Prop :=
  ∀ (x y : Reg) (s : State),
    (∀ n : Nibble, n ≠ 0#4 → 4096 < s.i.toNat + n.toNat → exec (.drw x y n) s = .fault .memoryOutOfRange) ∧
    ∃ t : State, exec (.drw x y 0#4) s = .next t ∧ t.getV 0xF#4 = 0#8 ∧
      t.result = { s.result with displayMutated := true } ∧
      OnlyRegisters [0xF#4] s t ∧ OnlyChanges [.v, .result] s t

/-! ## The timers -/

/-- LD Vx, DT, LD DT, Vx and LD ST, Vx (45 R280, R281, R282). -/
def Obligations.TimerInstructions : Prop :=
  ∀ (x : Reg) (s : State),
    decode (wordXKK 0xF#4 x 0x07#8) = .ldFromDt x ∧ decode (wordXKK 0xF#4 x 0x15#8) = .ldDt x ∧
    decode (wordXKK 0xF#4 x 0x18#8) = .ldSt x ∧
    (∃ t : State, exec (.ldFromDt x) s = .next t ∧ t.getV x = s.dt ∧ OnlyRegisters [x] s t ∧ OnlyChanges [.v] s t) ∧
    (∃ t : State, exec (.ldDt x) s = .next t ∧ t.dt = s.getV x ∧ OnlyChanges [.dt] s t) ∧
    ∃ t : State, exec (.ldSt x) s = .next t ∧ t.st = s.getV x ∧
      t.result = { s.result with soundWritten := true } ∧ OnlyChanges [.st, .result] s t

/-- A tick (60 R320): each timer that is not 0 is one less, a timer at 0 stays 0, in every state, and nothing else changes. That
both change in one transaction is the spec's choice 92 D36, that a tick is allowed in every state its choice 92 D23 (60 R321;
log entry 13). -/
def Obligations.TickDecrementsTheTimers : Prop :=
  ∀ (q : Quirks) (s : State), ∃ t : State, transact q .tick s = (t, .none) ∧ t.dt.toNat = s.dt.toNat - 1 ∧
    t.st.toNat = s.st.toNat - 1 ∧ OnlyChanges [.dt, .st] s t

/-! ## The loads, reset and the configuration -/

/-- An accepted program load (70 R342, R344 to R346; the spec's choices 92 D6, D16, D17, D18, D27, D29, D30): registers, I and timers
0, pc 0x200, stack empty, the program at 0x200, every other byte 0 but the font region's when the font is re-applied; the
display, the font and `fault` are kept. That only font data `load_font` would accept is re-applied is the model's own choice
(log entry 17); 70 R344 makes no such test, and no run shows the difference. -/
def Obligations.ProgramLoadResets : Prop :=
  ∀ (buf : List Byte) (reapply : Bool) (q : Quirks) (s : State), buf.length ≤ 3584 →
    ∃ t : State, transact q (.loadProgram buf reapply) s = (t, .load .accepted) ∧
      (∀ r : Reg, t.getV r = 0#8) ∧ t.i = 0#16 ∧ t.pc = 0x200#16 ∧ t.dt = 0#8 ∧ t.st = 0#8 ∧ t.stack = [] ∧
      t.haltedFetch = false ∧
      (∀ a : Nat, 0x200 ≤ a → t.mem.read a = buf.getD (a - 0x200) 0#8) ∧
      (∀ a : Nat, a < 0x200 → reapply = false ∨ s.activeFont = none → t.mem.read a = 0#8) ∧
      (∀ a : Nat, a < 0x200 → reapply = true → t.mem.read a =
        match acceptedFont (s.activeFont.bind Config.fontData) with
        | some bs => if Config.fontBase ≤ a ∧ a < Config.fontBase + bs.length then bs.getD (a - Config.fontBase) 0#8 else 0#8
        | none => 0#8) ∧
      OnlyChanges [.v, .i, .pc, .dt, .st, .stack, .mem, .haltedFetch] s t

/-- A program load of more than 3584 bytes is rejected and changes nothing (70 R343; the limit is the spec's choice 92 D27). -/
def Obligations.OversizedProgramIsRejected : Prop :=
  ∀ (buf : List Byte) (reapply : Bool) (q : Quirks) (s : State), 3584 < buf.length →
    transact q (.loadProgram buf reapply) s = (s, .load .rejected)

/-- An accepted font load (70 R347; the spec's choice 92 D30): the supplied bytes from FONT_BASE on, `active_font`, and nothing
else. The engine asks the font supplier for the bytes, and the font region has at least 80 bytes and ends at or below 0x200
(00 R8; the spec's choices 92 D13, D14, D15). -/
def Obligations.FontLoadWritesTheRegion : Prop :=
  80 ≤ Config.fontRegionSize ∧ Config.fontBase + Config.fontRegionSize ≤ 0x200 ∧
  (∀ (id : FontId) (q : Quirks) (s : State), transact q (.loadFont id) s =
    ((s.loadFontAnswer id (Config.fontData id)).1, .load (s.loadFontAnswer id (Config.fontData id)).2)) ∧
  ∀ (id : FontId) (bs : List Byte) (s : State), s.mem.wf = true → 1 ≤ bs.length →
    bs.length ≤ Config.fontRegionSize →
    ∃ t : State, s.loadFontAnswer id (some bs) = (t, .accepted) ∧ t.activeFont = some id ∧
      (∀ k : Nat, k < bs.length → t.mem.read (Config.fontBase + k) = bs.getD k 0#8) ∧
      OnlyBytes Config.fontBase bs.length s t ∧ OnlyChanges [.mem, .activeFont] s t

/-- A rejected font load (70 R348): an empty or failure answer, or data larger than the font region, changes nothing. -/
def Obligations.BadFontIsRejected : Prop :=
  ∀ (id : FontId) (s : State),
    s.loadFontAnswer id none = (s, .rejected) ∧ s.loadFontAnswer id (some []) = (s, .rejected) ∧
    ∀ bs : List Byte, Config.fontRegionSize < bs.length → s.loadFontAnswer id (some bs) = (s, .rejected)

/-- The machine after reset is what a program load of no bytes makes of a newly constructed engine, whatever its
configuration, the unspecified values at construction, and whether or not the font is re-applied (10 R60; 70 R340 to R346). That
State.reset is this load is the model's choice (log entry 9), and so are the values of its own fields `result` and `freeIndex`
(log entries 1, 2). The spec's choices it rests on: an empty buffer is accepted (92 D27), memory is 0 (D16), the stack is empty
(D17), the display is clear at construction and kept by the load (D18), the rest is unspecified at construction (D19), the
font is kept (D30). -/
def Obligations.ResetIsTheEmptyProgramLoad : Prop :=
  ∀ (q : Quirks) (reapply : Bool), q.subLegacy = false → ∃ e : Engine, construct q = .next e ∧
    Engine.transact (.loadProgram [] reapply) e = ({ quirks := q, state := State.reset }, .load .accepted)

/-- The configuration (10 R52 to R54, 60 R308). One with `QUIRK_SUB_LEGACY` true is refused, at construction and by every step
(the spec's choice 92 D2; log entry 6). With any other, construction gives an engine of that configuration, which no sequence
of transactions changes and which every transaction of the engine runs under; no step is refused, and only the five
instructions that name a quirk depend on it. `exec` and `step` are the engine under the configuration of the host's run, whose
three open settings are left open (92 D1; log entry 5). -/
def Obligations.SubLegacyIsRefused : Prop :=
  (∀ q : Quirks, q.subLegacy = true → construct q = .refused .quirkSubLegacy ∧
    ∀ s : State, stepWith q s = .refused .quirkSubLegacy ∧ transact q .step s = (s, .refused)) ∧
  (∀ q : Quirks, q.subLegacy = false →
    construct q = .next { quirks := q, state := State.construction } ∧
    ∀ (s : State) (r : Refusal), stepWith q s ≠ .refused r) ∧
  (∀ (trs : List Transaction) (e : Engine),
    Engine.run trs e = { quirks := e.quirks, state := runTransactions e.quirks trs e.state }) ∧
  (∀ (q : Quirks) (i : Instr) (s : State), i.readsQuirks = false → execWith q i s = exec i s) ∧
  (∀ (i : Instr) (s : State), execWith Config.quirks i s = exec i s) ∧
  ∀ s : State, stepWith Config.quirks s = step s ∧ ∀ r : Refusal, step s ≠ .refused r

/-! ## Memory and the return stack -/

/-- The memory law (20 R76): a byte written at a valid address is read back, and both operations fail outside memory, the
write without a new memory. -/
def Obligations.ReadAfterWrite : Prop :=
  ∀ (m : Memory) (a : Nat) (b : Byte), m.wf = true →
    (a < 4096 → ∃ m' : Memory, m.writeRange a [b] = some m' ∧ m'.readRange a 1 = some [b]) ∧
    (4096 ≤ a → m.writeRange a [b] = none ∧ m.readRange a 1 = none)

/-- A write of n bytes is all or nothing (20 R75): every byte of the range and no other, or no write at all. -/
def Obligations.RangeWriteIsAllOrNothing : Prop :=
  ∀ (m : Memory) (a : Nat) (bs : List Byte), m.wf = true →
    (a + bs.length ≤ 4096 → ∃ m' : Memory, m.writeRange a bs = some m' ∧
      (∀ k : Nat, k < bs.length → m'.read (a + k) = bs.getD k 0#8) ∧
      (∀ c : Nat, c < a ∨ a + bs.length ≤ c → m'.read c = m.read c)) ∧
    (4096 < a + bs.length → m.writeRange a bs = none)

/-- Push and Pop (10 R45, R46): a push on 16 entries and a pop on none fail, and the pushes of a list of entries that fits,
followed by as many pops, return the entries in reverse order and leave the stack as it was. -/
def Obligations.PushesPopInReverse : Prop :=
  (∀ (s : State) (w : Word), s.stack.length = 16 → s.push w = none) ∧
  (∀ s : State, s.stack = [] → s.pop = none) ∧
  ∀ (ws : List Word) (s : State), s.stack.length + ws.length ≤ 16 →
    ∃ t : State, pushAll ws s = some t ∧ t.stack = s.stack ++ ws ∧ popCount ws.length t = some (ws.reverse, s)

/-! ## Invariants -/

/-- Every step keeps the invariant: memory in canonical form, at most 16 stack entries, never both stopping bits, both flags 0
in a failure's record (20 R70; 10 R42, R44, R51, R57). -/
def Obligations.StepKeepsInv : Prop :=
  ∀ s t : State, s.Inv → step s = .next t → t.Inv

/-- Every sequence of steps, ticks, loads and display reads keeps the invariant, whatever its interleaving (00 R7, 20 R84, 60
R321). -/
def Obligations.TransactionsKeepInv : Prop :=
  ∀ (q : Quirks) (trs : List Transaction) (s : State), s.Inv → (runTransactions q trs s).Inv

/-- Every sequence of transactions keeps the bounds of the pc and of the stacked return addresses, so that no write of the pc
ever wraps (10 R37, the spec's choice 92 D8). -/
def Obligations.TransactionsKeepPcBound : Prop :=
  ∀ (q : Quirks) (trs : List Transaction) (s : State), s.PcBound → (runTransactions q trs s).PcBound

/-- The state after reset meets both invariants. -/
def Obligations.ResetMeetsTheInvariants : Prop :=
  State.reset.Inv ∧ State.reset.PcBound

/-! ## Rules over all instructions -/

/-- Which instructions write which part of the state (10 R33, R38, R40, R41, R43, R48; 20 R72; 60 R322): every other instruction
leaves the part as it was, and none touches `active_font`, `halted_fetch` or `fault`. -/
def Obligations.OnlyNamedInstructionsWrite : Prop :=
  ∀ (i : Instr) (s t : State), exec i s = .next t →
    (∀ r : Reg, i.isDestination r = false → (r = 0xF#4 → i.isFlagWriter = false) → t.getV r = s.getV r) ∧
    (i.mayWriteI = false → t.i = s.i) ∧
    (i.mayWritePc = false → t.pc = s.pc) ∧
    (i.isLdDt = false → t.dt = s.dt) ∧
    (i.isLdSt = false → t.st = s.st) ∧
    (i.mayWriteStack = false → t.stack = s.stack) ∧
    (i.mayWriteDisp = false → t.disp = s.disp) ∧
    (i.mayWriteMem = false → t.mem = s.mem) ∧
    t.activeFont = s.activeFont ∧ t.haltedFetch = s.haltedFetch ∧ t.fault = s.fault

/-- VF as the flag output (10 R32): ADD Vx, Vy, SUB, SHR, SUBN, SHL and DRW leave 0 or 1 in VF whatever their X and Y, and no
other instruction writes VF but as its named destination. -/
def Obligations.FlagInstructionsWriteVF : Prop :=
  ∀ (i : Instr) (s t : State), exec i s = .next t →
    (i.isFlagWriter = true → t.getV 0xF#4 = 0#8 ∨ t.getV 0xF#4 = 1#8) ∧
    (i.isFlagWriter = false → i.isDestination 0xF#4 = false → t.getV 0xF#4 = s.getV 0xF#4)

/-- `active_font` does not affect execution (10 R50): with another font active every instruction does the same. -/
def Obligations.ActiveFontDoesNotMatter : Prop :=
  ∀ (i : Instr) (s : State) (f : Option FontId),
    exec i { s with activeFont := f } = mapNext (fun t => { t with activeFont := f }) (exec i s)

/-- No instruction reads ST (10 R41): with another value in ST every instruction but LD ST, Vx does the same and keeps that value,
and LD ST, Vx does exactly the same. -/
def Obligations.SoundTimerIsNeverRead : Prop :=
  ∀ (i : Instr) (s : State) (b : Byte),
    exec i { s with st := b } =
      if i.isLdSt = true then exec i s else mapNext (fun t => { t with st := b }) (exec i s)

/-- No instruction but DRW reads the display (10 R48): with another display every other instruction does the same, keeping that
display, and CLS does exactly the same. -/
def Obligations.OnlyDrwReadsTheDisplay : Prop :=
  ∀ (i : Instr) (s : State) (d : Display), (∀ (x y : Reg) (n : Nibble), i ≠ .drw x y n) →
    exec i { s with disp := d } =
      if i = .cls then exec i s else mapNext (fun t => { t with disp := d }) (exec i s)
end

