-- ==== Sys2Proof/Laws/Decode.lean ====
section
/-! SUPPORT. The fields of a put-together opcode, and an opcode put together from its fields (30 R101, R102). -/

namespace Sys2Proof

theorem extract_high {w v : Nat} (a : BitVec w) (b : BitVec v) : (a ++ b).extractLsb' v w = a := by
  apply BitVec.eq_of_getLsbD_eq
  intro i hi
  simp [BitVec.getLsbD_append, hi]

theorem extract_low {w v : Nat} (a : BitVec w) (b : BitVec v) (lo n : Nat) (h : lo + n ≤ v) :
    (a ++ b).extractLsb' lo n = b.extractLsb' lo n := by
  apply BitVec.eq_of_getLsbD_eq
  intro i hi
  have : lo + i < v := by omega
  simp [BitVec.getLsbD_append, hi, this]

theorem extract_all {w : Nat} (a : BitVec w) : a.extractLsb' 0 w = a := by simp

theorem extract_join {u : Nat} (a : BitVec u) (k v w : Nat) :
    a.extractLsb' (k + v) w ++ a.extractLsb' k v = a.extractLsb' k (w + v) := by
  apply BitVec.eq_of_getLsbD_eq
  intro i hi
  simp only [BitVec.getLsbD_append, BitVec.getLsbD_extractLsb']
  by_cases h : i < v
  · simp [h, hi]
  · have h1 : i - v < w := by omega
    have h2 : k + v + (i - v) = k + i := by omega
    simp [h, h1, h2, hi]

theorem append_extract {w v : Nat} (a : BitVec (w + v)) : a.extractLsb' v w ++ a.extractLsb' 0 v = a := by
  have h := extract_join a 0 v w
  rw [extract_all, Nat.zero_add] at h
  exact h

@[simp] theorem opGroup_wordNNN (g : Nibble) (nnn : Addr) : opGroup (wordNNN g nnn) = g := extract_high g nnn

@[simp] theorem opNNN_wordNNN (g : Nibble) (nnn : Addr) : opNNN (wordNNN g nnn) = nnn :=
  (extract_low g nnn 0 12 (by omega)).trans (extract_all nnn)

@[simp] theorem opGroup_wordXKK (g : Nibble) (x : Reg) (kk : Byte) : opGroup (wordXKK g x kk) = g :=
  extract_high g (x ++ kk)

@[simp] theorem opX_wordXKK (g : Nibble) (x : Reg) (kk : Byte) : opX (wordXKK g x kk) = x :=
  (extract_low g (x ++ kk) 8 4 (by omega)).trans (extract_high x kk)

@[simp] theorem opKK_wordXKK (g : Nibble) (x : Reg) (kk : Byte) : opKK (wordXKK g x kk) = kk :=
  (extract_low g (x ++ kk) 0 8 (by omega)).trans ((extract_low x kk 0 8 (by omega)).trans (extract_all kk))

@[simp] theorem opGroup_wordXYN (g : Nibble) (x y : Reg) (n : Nibble) : opGroup (wordXYN g x y n) = g :=
  opGroup_wordXKK g x (y ++ n)

@[simp] theorem opX_wordXYN (g : Nibble) (x y : Reg) (n : Nibble) : opX (wordXYN g x y n) = x :=
  opX_wordXKK g x (y ++ n)

@[simp] theorem opY_wordXYN (g : Nibble) (x y : Reg) (n : Nibble) : opY (wordXYN g x y n) = y :=
  (extract_low g (x ++ (y ++ n)) 4 4 (by omega)).trans
    ((extract_low x (y ++ n) 4 4 (by omega)).trans (extract_high y n))

@[simp] theorem opN_wordXYN (g : Nibble) (x y : Reg) (n : Nibble) : opN (wordXYN g x y n) = n :=
  (extract_low g (x ++ (y ++ n)) 0 4 (by omega)).trans
    ((extract_low x (y ++ n) 0 4 (by omega)).trans ((extract_low y n 0 4 (by omega)).trans (extract_all n)))

/-- An opcode is its group and its address. -/
theorem wordNNN_fields (op : Word) : wordNNN (opGroup op) (opNNN op) = op := append_extract (w := 4) (v := 12) op

/-- An opcode is its group, register X and low byte. -/
theorem wordXKK_fields (op : Word) : wordXKK (opGroup op) (opX op) (opKK op) = op := by
  have h : opX op ++ opKK op = opNNN op := extract_join op 0 8 4
  simpa [wordXKK, wordNNN, h] using wordNNN_fields op

/-- An opcode is its group, registers X and Y and low nibble. -/
theorem wordXYN_fields (op : Word) : wordXYN (opGroup op) (opX op) (opY op) (opN op) = op := by
  have h : opY op ++ opN op = opKK op := extract_join op 0 4 4
  simpa [wordXYN, h] using wordXKK_fields op

/-- The bytes of a word in memory order put together again are the word (20 R78). -/
theorem be16_wordBytes (op : Word) : be16 (op.extractLsb' 8 8) (op.extractLsb' 0 8) = op :=
  append_extract (w := 8) (v := 8) op

/-- The decoder on the bytes of a word. -/
theorem decodeBytes_wordBytes (op : Word) (rest : List Byte) :
    decodeBytes (wordBytes op ++ rest) = .ok (decode op, rest) := by
  simp [wordBytes, decodeBytes, be16_wordBytes]

/-! ### The decoder by group (30 R105) -/

/-- A nibble is one of 16. -/
theorem nibble_cases (g : Nibble) :
    g = 0x0#4 ∨ g = 0x1#4 ∨ g = 0x2#4 ∨ g = 0x3#4 ∨ g = 0x4#4 ∨ g = 0x5#4 ∨ g = 0x6#4 ∨ g = 0x7#4 ∨
      g = 0x8#4 ∨ g = 0x9#4 ∨ g = 0xA#4 ∨ g = 0xB#4 ∨ g = 0xC#4 ∨ g = 0xD#4 ∨ g = 0xE#4 ∨ g = 0xF#4 := by
  rcases g with ⟨n, hn⟩
  interval_cases n <;> decide +revert

theorem decode_group0 {op : Word} (h : opGroup op = 0x0#4) : decode op = decode0 op := by
  simp [decode, h]

theorem decode_group1 {op : Word} (h : opGroup op = 0x1#4) : decode op = .jp (opNNN op) := by
  simp [decode, h]

theorem decode_group2 {op : Word} (h : opGroup op = 0x2#4) : decode op = .call (opNNN op) := by
  simp [decode, h]

theorem decode_group3 {op : Word} (h : opGroup op = 0x3#4) : decode op = .seImm (opX op) (opKK op) := by
  simp [decode, h]

theorem decode_group4 {op : Word} (h : opGroup op = 0x4#4) : decode op = .sneImm (opX op) (opKK op) := by
  simp [decode, h]

theorem decode_group5 {op : Word} (h : opGroup op = 0x5#4) : decode op = .seReg (opX op) (opY op) (opN op) := by
  simp [decode, h]

theorem decode_group6 {op : Word} (h : opGroup op = 0x6#4) : decode op = .ldImm (opX op) (opKK op) := by
  simp [decode, h]

theorem decode_group7 {op : Word} (h : opGroup op = 0x7#4) : decode op = .addImm (opX op) (opKK op) := by
  simp [decode, h]

theorem decode_group8 {op : Word} (h : opGroup op = 0x8#4) : decode op = decode8 op := by
  simp [decode, h]

theorem decode_group9 {op : Word} (h : opGroup op = 0x9#4) : decode op = .sneReg (opX op) (opY op) (opN op) := by
  simp [decode, h]

theorem decode_groupA {op : Word} (h : opGroup op = 0xA#4) : decode op = .ldI (opNNN op) := by
  simp [decode, h]

theorem decode_groupB {op : Word} (h : opGroup op = 0xB#4) : decode op = .jpV0 (opNNN op) := by
  simp [decode, h]

theorem decode_groupC {op : Word} (h : opGroup op = 0xC#4) : decode op = .rnd (opX op) (opKK op) := by
  simp [decode, h]

theorem decode_groupD {op : Word} (h : opGroup op = 0xD#4) : decode op = .drw (opX op) (opY op) (opN op) := by
  simp [decode, h]

theorem decode_groupE {op : Word} (h : opGroup op = 0xE#4) : decode op = decodeE op := by
  simp [decode, h]

theorem decode_groupF {op : Word} (h : opGroup op = 0xF#4) : decode op = decodeF op := by
  simp [decode, h]

/-! ### An opcode under the masks of the opcode table -/

theorem and_mask_group (op : Word) : op &&& 0xF000#16 = wordNNN (opGroup op) 0#12 := by
  apply BitVec.eq_of_getLsbD_eq
  intro i hi
  simp only [wordNNN, opGroup, BitVec.getLsbD_and, BitVec.getLsbD_append, BitVec.getLsbD_extractLsb']
  interval_cases i <;> simp

theorem and_mask_group_n (op : Word) : op &&& 0xF00F#16 = wordXYN (opGroup op) 0#4 0#4 (opN op) := by
  apply BitVec.eq_of_getLsbD_eq
  intro i hi
  simp only [wordXYN, wordXKK, opGroup, opN, BitVec.getLsbD_and, BitVec.getLsbD_append, BitVec.getLsbD_extractLsb']
  interval_cases i <;> simp

theorem and_mask_group_kk (op : Word) : op &&& 0xF0FF#16 = wordXKK (opGroup op) 0#4 (opKK op) := by
  apply BitVec.eq_of_getLsbD_eq
  intro i hi
  simp only [wordXKK, opGroup, opKK, BitVec.getLsbD_and, BitVec.getLsbD_append, BitVec.getLsbD_extractLsb']
  interval_cases i <;> simp

theorem and_mask_all (op : Word) : op &&& 0xFFFF#16 = op := by
  apply BitVec.eq_of_getLsbD_eq
  intro i hi
  simp only [BitVec.getLsbD_and]
  interval_cases i <;> simp

end Sys2Proof
end

