-- ==== Sys2Proof/Laws/Display.lean ====
section
/-! SUPPORT. The grid: a pixel written reads back, other pixels stay; what a sprite bit and a sprite row draw. -/

namespace Sys2Proof.Machine

/-- What a pixel of the grid reads as after a pixel write inside the grid. -/
theorem Display.pixel_setPixel (d : Display) {c r : Nat} (hc : c < 64) (hr : r < 32) (p : Bool) (c' r' : Nat) :
    Display.pixel (Display.setPixel d c r p) c' r' = if c' = c ∧ r' = r then p else Display.pixel d c' r' := by
  unfold Display.setPixel
  rw [dif_pos ⟨hc, hr⟩]
  unfold Display.pixel
  by_cases h : c' < 64 ∧ r' < 32
  · rw [dif_pos h, dif_pos h]
    simp only [Vector.getElem_set]
    by_cases h1 : r = r'
    · subst h1
      by_cases h2 : c = c'
      · simp [h2]
      · have h3 : ¬c' = c := fun e => h2 e.symm
        simp [h2, h3]
    · have h3 : ¬r' = r := fun e => h1 e.symm
      simp [h1, h3]
  · rw [dif_neg h, dif_neg h]
    have : ¬(c' = c ∧ r' = r) := by rintro ⟨rfl, rfl⟩; exact h ⟨hc, hr⟩
    rw [if_neg this]

/-- No pixel is on outside the grid. -/
theorem Display.pixel_outside (d : Display) {c r : Nat} (h : ¬(c < 64 ∧ r < 32)) : Display.pixel d c r = false := by
  simp [Display.pixel, h]

/-- The clear grid. -/
theorem Display.pixel_clear (c r : Nat) : Display.pixel Display.clear c r = false := by
  unfold Display.pixel Display.clear
  split <;> simp

/-- Two grids with the same pixels are the same grid. -/
theorem Display.ext {d e : Display} (h : ∀ c r, c < 64 → r < 32 → Display.pixel d c r = Display.pixel e c r) :
    d = e := by
  apply Vector.ext
  intro r hr
  apply Vector.ext
  intro c hc
  have := h c r hc hr
  simpa [Display.pixel, hc, hr] using this

/-- One sprite bit: clipped outside the grid, else XORed into its pixel; other pixels stay. -/
theorem pixel_drawPixel (d : Drawing) (px py : Nat) (p : Bool) {c r : Nat} (hc : c < 64) (hr : r < 32) :
    Display.pixel (drawPixel d px py p).grid c r =
      (Display.pixel d.grid c r ^^ (decide (c = px ∧ r = py) && p)) := by
  unfold drawPixel
  by_cases h : px ≥ dispW ∨ py ≥ dispH
  · have : ¬(c = px ∧ r = py) := by
      rintro ⟨rfl, rfl⟩
      rcases h with h | h
      · exact absurd hc (not_lt.2 h)
      · exact absurd hr (not_lt.2 h)
    simp [h, this]
  · have h1 : px < 64 := not_le.1 fun e => h (Or.inl e)
    have h2 : py < 32 := not_le.1 fun e => h (Or.inr e)
    rw [if_neg h]
    simp only [Display.pixel_setPixel d.grid h1 h2]
    by_cases h3 : c = px ∧ r = py
    · obtain ⟨rfl, rfl⟩ := h3
      simp
    · simp [h3]

/-- One sprite bit: the collision so far, or this bit turning its pixel off. -/
theorem collision_drawPixel (d : Drawing) (px py : Nat) (p : Bool) :
    (drawPixel d px py p).collision = (d.collision || (p && Display.pixel d.grid px py)) := by
  unfold drawPixel
  by_cases h : px ≥ dispW ∨ py ≥ dispH
  · have h1 : ¬(px < 64 ∧ py < 32) := by
      rintro ⟨a, b⟩
      rcases h with h | h
      · exact absurd a (not_lt.2 h)
      · exact absurd b (not_lt.2 h)
    simp [h, Display.pixel_outside d.grid h1]
  · simp [h]

/-- The first n bits of a row, from the left. -/
def drawBits (ox py : Nat) (row : Byte) (n : Nat) (d : Drawing) : Drawing :=
  (List.range n).foldl (fun d i => drawPixel d (ox + i) py (spriteBit row i)) d

theorem drawRow_eq_drawBits (ox py : Nat) (row : Byte) (d : Drawing) : drawRow ox py row d = drawBits ox py row 8 d := rfl

theorem drawBits_succ (ox py : Nat) (row : Byte) (n : Nat) (d : Drawing) :
    drawBits ox py row (n + 1) d = drawPixel (drawBits ox py row n d) (ox + n) py (spriteBit row n) := by
  simp [drawBits, List.range_succ]

theorem pixel_drawBits (ox py : Nat) (row : Byte) (n : Nat) (d : Drawing) {c r : Nat} (hc : c < 64) (hr : r < 32) :
    Display.pixel (drawBits ox py row n d).grid c r =
      (Display.pixel d.grid c r ^^ (decide (r = py ∧ ox ≤ c ∧ c < ox + n) && spriteBit row (c - ox))) := by
  induction n with
  | zero =>
    have h : ¬(r = py ∧ ox ≤ c ∧ c < ox + 0) := by omega
    simp only [h, decide_false, Bool.false_and, Bool.xor_false]
    rfl
  | succ n ih =>
    rw [drawBits_succ, pixel_drawPixel _ _ _ _ hc hr, ih]
    by_cases h : c = ox + n ∧ r = py
    · obtain ⟨rfl, rfl⟩ := h
      simp
    · have h1 : (r = py ∧ ox ≤ c ∧ c < ox + (n + 1)) ↔ (r = py ∧ ox ≤ c ∧ c < ox + n) := by omega
      simp only [h1, h, decide_false, Bool.false_and, Bool.xor_false]

theorem collision_drawBits (ox py : Nat) (row : Byte) (n : Nat) (d : Drawing) :
    (drawBits ox py row n d).collision = true ↔
      d.collision = true ∨ ∃ i < n, spriteBit row i = true ∧ Display.pixel d.grid (ox + i) py = true := by
  induction n with
  | zero => simp [drawBits]
  | succ n ih =>
    have hp : Display.pixel (drawBits ox py row n d).grid (ox + n) py = Display.pixel d.grid (ox + n) py := by
      by_cases h : ox + n < 64 ∧ py < 32
      · simp [pixel_drawBits ox py row n d h.1 h.2]
      · rw [Display.pixel_outside _ h, Display.pixel_outside _ h]
    rw [drawBits_succ, collision_drawPixel, hp, Bool.or_eq_true, Bool.and_eq_true, ih]
    constructor
    · rintro ((h | ⟨i, hi, h⟩) | h)
      · exact Or.inl h
      · exact Or.inr ⟨i, by omega, h⟩
      · exact Or.inr ⟨n, by omega, h⟩
    · rintro (h | ⟨i, hi, h⟩)
      · exact Or.inl (Or.inl h)
      · by_cases hn : i = n
        · subst hn
          exact Or.inr h
        · exact Or.inl (Or.inr ⟨i, by omega, h⟩)

/-- The grid after a sprite: each pixel of the grid XORed with the sprite bit over it. -/
theorem pixel_drawRows (ox py : Nat) (rows : List Byte) (d : Drawing) {c r : Nat} (hc : c < 64) (hr : r < 32) :
    Display.pixel (drawRows ox py rows d).grid c r =
      (Display.pixel d.grid c r ^^ (decide (py ≤ r ∧ r < py + rows.length ∧ ox ≤ c ∧ c < ox + 8) &&
        spriteBit (rows.getD (r - py) 0#8) (c - ox))) := by
  induction rows generalizing py d with
  | nil =>
    have h : ¬(py ≤ r ∧ r < py + ([] : List Byte).length ∧ ox ≤ c ∧ c < ox + 8) := by simp; omega
    simp only [h, decide_false, Bool.false_and, Bool.xor_false]
    rfl
  | cons row rows ih =>
    simp only [drawRows, List.length_cons]
    rw [ih, drawRow_eq_drawBits, pixel_drawBits _ _ _ _ _ hc hr]
    by_cases h : r = py
    · subst h
      have h1 : ¬(r + 1 ≤ r ∧ r < r + 1 + rows.length ∧ ox ≤ c ∧ c < ox + 8) := by omega
      have h2 : (r ≤ r ∧ r < r + (rows.length + 1) ∧ ox ≤ c ∧ c < ox + 8) ↔ (r = r ∧ ox ≤ c ∧ c < ox + 8) := by omega
      simp only [h1, h2, decide_false, Bool.false_and, Bool.xor_false, Nat.sub_self, List.getD_cons_zero]
    · have h1 : ¬(r = py ∧ ox ≤ c ∧ c < ox + 8) := by omega
      simp only [h1, decide_false, Bool.false_and, Bool.xor_false]
      by_cases h2 : py + 1 ≤ r
      · have h3 : r - py = (r - (py + 1)) + 1 := by omega
        have h4 : (py ≤ r ∧ r < py + (rows.length + 1) ∧ ox ≤ c ∧ c < ox + 8) ↔
            (py + 1 ≤ r ∧ r < py + 1 + rows.length ∧ ox ≤ c ∧ c < ox + 8) := by omega
        rw [h3, List.getD_cons_succ]
        simp only [h4]
      · have h3 : ¬(py ≤ r ∧ r < py + (rows.length + 1) ∧ ox ≤ c ∧ c < ox + 8) := by omega
        have h4 : ¬(py + 1 ≤ r ∧ r < py + 1 + rows.length ∧ ox ≤ c ∧ c < ox + 8) := by omega
        simp only [h3, h4, decide_false, Bool.false_and]

/-- The collision after a sprite: the one so far, or a sprite bit over a pixel that was on. -/
theorem collision_drawRows (ox py : Nat) (rows : List Byte) (d : Drawing) :
    (drawRows ox py rows d).collision = true ↔
      d.collision = true ∨ ∃ j < rows.length, ∃ i < 8,
        spriteBit (rows.getD j 0#8) i = true ∧ Display.pixel d.grid (ox + i) (py + j) = true := by
  induction rows generalizing py d with
  | nil => simp [drawRows]
  | cons row rows ih =>
    simp only [drawRows, List.length_cons]
    rw [ih, drawRow_eq_drawBits, collision_drawBits]
    have hp : ∀ i j, Display.pixel (drawBits ox py row 8 d).grid (ox + i) (py + 1 + j) =
        Display.pixel d.grid (ox + i) (py + (j + 1)) := by
      intro i j
      have e : py + 1 + j = py + (j + 1) := by omega
      rw [e]
      by_cases h : ox + i < 64 ∧ py + (j + 1) < 32
      · rw [pixel_drawBits ox py row 8 d h.1 h.2]
        simp
      · rw [Display.pixel_outside _ h, Display.pixel_outside _ h]
    simp only [hp]
    constructor
    · rintro ((h | ⟨i, hi, h⟩) | ⟨j, hj, i, hi, h⟩)
      · exact Or.inl h
      · exact Or.inr ⟨0, by omega, i, hi, by simpa using h⟩
      · exact Or.inr ⟨j + 1, by omega, i, hi, by simpa using h⟩
    · rintro (h | ⟨j, hj, i, hi, h⟩)
      · exact Or.inl (Or.inl h)
      · cases j with
        | zero => exact Or.inl (Or.inr ⟨i, hi, by simpa using h⟩)
        | succ j => exact Or.inr ⟨j, by omega, i, hi, by simpa using h⟩

end Sys2Proof.Machine
end

