-- ==== Sys2Proof/Laws/Memory.lean ====
section
/-! SUPPORT. Memory: a byte written is read back, other bytes stay, and every operation keeps the canonical form. -/

namespace Sys2Proof.Machine

theorem Memory.wfFrom_mono {m : Memory} {lo lo' : Nat} (h : lo ≤ lo') (hm : Memory.wfFrom lo' m = true) :
    Memory.wfFrom lo m = true := by
  cases m with
  | nil => rfl
  | cons c m =>
    obtain ⟨a, b⟩ := c
    simp only [Memory.wfFrom, Bool.and_eq_true, decide_eq_true_eq] at hm ⊢
    exact ⟨⟨⟨le_trans h hm.1.1.1, hm.1.1.2⟩, hm.1.2⟩, hm.2⟩

/-- Below its first address a canonical memory lists nothing. -/
theorem Memory.read_below {m : Memory} {lo a : Nat} (hm : Memory.wfFrom lo m = true) (ha : a < lo) :
    m.read a = Memory.unlisted := by
  induction m generalizing lo with
  | nil => rfl
  | cons c m ih =>
    obtain ⟨a', b⟩ := c
    simp only [Memory.wfFrom, Bool.and_eq_true, decide_eq_true_eq] at hm
    have hne : a ≠ a' := by omega
    simp only [Memory.read, hne, if_false]
    exact ih hm.2 (by omega)

theorem Memory.wfFrom_write {m : Memory} {lo a : Nat} {b : Byte} (hm : Memory.wfFrom lo m = true) (hlo : lo ≤ a)
    (ha : a < memSize) : Memory.wfFrom lo (m.write a b) = true := by
  induction m generalizing lo with
  | nil =>
    by_cases hb : b = Memory.unlisted
    · simp [Memory.write, Memory.wfFrom, hb]
    · simp [Memory.write, Memory.wfFrom, hb, hlo, ha]
  | cons c m ih =>
    obtain ⟨a', b'⟩ := c
    have hc := hm
    simp only [Memory.wfFrom, Bool.and_eq_true, decide_eq_true_eq] at hc
    obtain ⟨⟨⟨h1, h2⟩, h3⟩, h4⟩ := hc
    rcases lt_trichotomy a a' with hlt | rfl | hgt
    · by_cases hb : b = Memory.unlisted
      · simpa [Memory.write, hlt, hb] using hm
      · simp only [Memory.write, hlt, if_true, hb, if_false, Memory.wfFrom, Bool.and_eq_true, decide_eq_true_eq]
        exact ⟨⟨⟨hlo, ha⟩, by simpa using hb⟩, ⟨⟨by omega, h2⟩, h3⟩, h4⟩
    · by_cases hb : b = Memory.unlisted
      · simpa [Memory.write, hb] using Memory.wfFrom_mono (Nat.le_succ_of_le h1) h4
      · simp only [Memory.write, lt_irrefl, if_false, hb, if_true, Memory.wfFrom, Bool.and_eq_true, decide_eq_true_eq]
        exact ⟨⟨⟨h1, h2⟩, by simpa using hb⟩, h4⟩
    · have hn : ¬a < a' := by omega
      have hne : a ≠ a' := by omega
      simp only [Memory.write, hn, hne, if_false, Memory.wfFrom, Bool.and_eq_true, decide_eq_true_eq]
      exact ⟨⟨⟨h1, h2⟩, h3⟩, ih h4 (by omega)⟩

/-- Writing one byte keeps the canonical form. -/
theorem Memory.wf_write {m : Memory} {a : Nat} {b : Byte} (hm : m.wf = true) (ha : a < memSize) :
    (m.write a b).wf = true := Memory.wfFrom_write hm (Nat.zero_le a) ha

theorem Memory.read_write_from {m : Memory} {lo a : Nat} {b : Byte} (hm : Memory.wfFrom lo m = true) (c : Nat) :
    (m.write a b).read c = if c = a then b else m.read c := by
  induction m generalizing lo with
  | nil =>
    by_cases hb : b = Memory.unlisted
    · simp [Memory.write, hb, Memory.read]
    · simp [Memory.write, hb, Memory.read]
  | cons e m ih =>
    obtain ⟨a', b'⟩ := e
    simp only [Memory.wfFrom, Bool.and_eq_true, decide_eq_true_eq] at hm
    obtain ⟨⟨⟨h1, h2⟩, h3⟩, h4⟩ := hm
    rcases lt_trichotomy a a' with hlt | rfl | hgt
    · by_cases hb : b = Memory.unlisted
      · simp only [Memory.write, hlt, if_true, hb]
        by_cases hc : c = a
        · subst hc
          simp only [Memory.read, Nat.ne_of_lt hlt, if_false, if_true]
          exact Memory.read_below h4 (by omega)
        · simp [hc]
      · simp [Memory.write, hlt, hb, Memory.read]
    · by_cases hb : b = Memory.unlisted
      · simp only [Memory.write, lt_irrefl, if_false, if_true, hb]
        by_cases hc : c = a
        · subst hc
          simp only [if_true]
          exact Memory.read_below h4 (by omega)
        · simp [hc, Memory.read]
      · simp only [Memory.write, lt_irrefl, if_false, if_true, hb, Memory.read]
        by_cases hc : c = a <;> simp [hc]
    · have hn : ¬a < a' := by omega
      have hne : a ≠ a' := by omega
      simp only [Memory.write, hn, hne, if_false, Memory.read, ih h4]
      by_cases hc : c = a'
      · have : c ≠ a := by omega
        simp [hc, Ne.symm hne]
      · simp [hc]

/-- What a byte reads as after a write: the byte written at its address, the old byte elsewhere. -/
theorem Memory.read_write {m : Memory} {a : Nat} {b : Byte} (hm : m.wf = true) (c : Nat) :
    (m.write a b).read c = if c = a then b else m.read c := Memory.read_write_from hm c

/-- Writing bytes at ascending addresses keeps the canonical form. -/
theorem Memory.wf_writeAll {m : Memory} {a : Nat} {bs : List Byte} (hm : m.wf = true) (h : a + bs.length ≤ memSize) :
    (m.writeAll a bs).wf = true := by
  induction bs generalizing m a with
  | nil => exact hm
  | cons b bs ih =>
    simp only [List.length_cons] at h
    exact ih (Memory.wf_write hm (by omega)) (by omega)

/-- What a byte reads as after bytes are written from address a on. -/
theorem Memory.read_writeAll {m : Memory} {a : Nat} {bs : List Byte} (hm : m.wf = true) (h : a + bs.length ≤ memSize)
    (c : Nat) : (m.writeAll a bs).read c = if a ≤ c ∧ c < a + bs.length then bs.getD (c - a) 0#8 else m.read c := by
  induction bs generalizing m a with
  | nil =>
    have : ¬(a ≤ c ∧ c < a + 0) := by omega
    simp [Memory.writeAll]
  | cons b bs ih =>
    simp only [List.length_cons] at h ⊢
    simp only [Memory.writeAll]
    rw [ih (Memory.wf_write hm (by omega)) (by omega), Memory.read_write hm]
    by_cases h1 : c = a
    · subst h1
      simp
    · by_cases h2 : a ≤ c ∧ c < a + (bs.length + 1)
      · have h3 : a + 1 ≤ c ∧ c < a + 1 + bs.length := by omega
        have h4 : c - a = (c - (a + 1)) + 1 := by omega
        rw [if_pos h3, if_pos h2, h4]
        rfl
      · have h3 : ¬(a + 1 ≤ c ∧ c < a + 1 + bs.length) := by omega
        rw [if_neg h3, if_neg h2, if_neg h1]

/-- A range write either fails, exactly when its range leaves memory, or writes every byte. -/
theorem Memory.writeRange_eq_some {m m' : Memory} {a : Nat} {bs : List Byte} :
    m.writeRange a bs = some m' ↔ a + bs.length ≤ memSize ∧ m' = m.writeAll a bs := by
  unfold Memory.writeRange
  split <;> simp_all [eq_comm]

theorem Memory.writeRange_eq_none {m : Memory} {a : Nat} {bs : List Byte} :
    m.writeRange a bs = none ↔ memSize < a + bs.length := by
  unfold Memory.writeRange
  split <;> simp_all

/-- A range write keeps the canonical form. -/
theorem Memory.wf_writeRange {m m' : Memory} {a : Nat} {bs : List Byte} (hm : m.wf = true)
    (h : m.writeRange a bs = some m') : m'.wf = true := by
  obtain ⟨h1, rfl⟩ := Memory.writeRange_eq_some.1 h
  exact Memory.wf_writeAll hm h1

/-- A range read either fails, exactly when a range of at least one byte leaves memory, or reads every byte. -/
theorem Memory.readRange_eq_some {m : Memory} {a n : Nat} {bs : List Byte} :
    m.readRange a n = some bs ↔
      (n = 0 ∨ a + n ≤ memSize) ∧ bs = (List.range n).map fun k => m.read (a + k) := by
  unfold Memory.readRange
  split
  · subst_vars
    simp [eq_comm]
  · split <;> simp_all [eq_comm]

theorem Memory.readRange_eq_none {m : Memory} {a n : Nat} :
    m.readRange a n = none ↔ n ≠ 0 ∧ memSize < a + n := by
  unfold Memory.readRange
  split
  · simp_all
  · split <;> simp_all

/-- Memory right after reset is in canonical form. -/
theorem Memory.wf_nil : Memory.wf [] = true := rfl

end Sys2Proof.Machine
end

