-- ==== Sys2Proof/Laws/State.lean ====
section
/-! SUPPORT. The fields of each update of the state, one lemma a field, so that no proof unfolds a record update. -/

namespace Sys2Proof.Machine

/-! ### The sizes as numbers, for arithmetic -/

@[simp] theorem memSize_eq : memSize = 4096 := rfl
@[simp] theorem progMax_eq : progMax = 3584 := rfl
@[simp] theorem stackDepth_eq : stackDepth = 16 := rfl
@[simp] theorem dispW_eq : dispW = 64 := rfl
@[simp] theorem dispH_eq : dispH = 32 := rfl
@[simp] theorem glyphSize_eq : glyphSize = 5 := rfl

variable (s : State)

/-! ### `State.setV` -/

@[simp] theorem State.setV_i (r : Reg) (b : Byte) : (s.setV r b).i = s.i := rfl
@[simp] theorem State.setV_pc (r : Reg) (b : Byte) : (s.setV r b).pc = s.pc := rfl
@[simp] theorem State.setV_dt (r : Reg) (b : Byte) : (s.setV r b).dt = s.dt := rfl
@[simp] theorem State.setV_st (r : Reg) (b : Byte) : (s.setV r b).st = s.st := rfl
@[simp] theorem State.setV_stack (r : Reg) (b : Byte) : (s.setV r b).stack = s.stack := rfl
@[simp] theorem State.setV_disp (r : Reg) (b : Byte) : (s.setV r b).disp = s.disp := rfl
@[simp] theorem State.setV_mem (r : Reg) (b : Byte) : (s.setV r b).mem = s.mem := rfl
@[simp] theorem State.setV_activeFont (r : Reg) (b : Byte) : (s.setV r b).activeFont = s.activeFont := rfl
@[simp] theorem State.setV_haltedFetch (r : Reg) (b : Byte) : (s.setV r b).haltedFetch = s.haltedFetch := rfl
@[simp] theorem State.setV_fault (r : Reg) (b : Byte) : (s.setV r b).fault = s.fault := rfl
@[simp] theorem State.setV_result (r : Reg) (b : Byte) : (s.setV r b).result = s.result := rfl
@[simp] theorem State.setV_freeIndex (r : Reg) (b : Byte) : (s.setV r b).freeIndex = s.freeIndex := rfl

/-! ### `State.setI` -/

@[simp] theorem State.setI_v (w : Word) : (s.setI w).v = s.v := rfl
@[simp] theorem State.setI_i (w : Word) : (s.setI w).i = w := rfl
@[simp] theorem State.setI_pc (w : Word) : (s.setI w).pc = s.pc := rfl
@[simp] theorem State.setI_dt (w : Word) : (s.setI w).dt = s.dt := rfl
@[simp] theorem State.setI_st (w : Word) : (s.setI w).st = s.st := rfl
@[simp] theorem State.setI_stack (w : Word) : (s.setI w).stack = s.stack := rfl
@[simp] theorem State.setI_disp (w : Word) : (s.setI w).disp = s.disp := rfl
@[simp] theorem State.setI_mem (w : Word) : (s.setI w).mem = s.mem := rfl
@[simp] theorem State.setI_activeFont (w : Word) : (s.setI w).activeFont = s.activeFont := rfl
@[simp] theorem State.setI_haltedFetch (w : Word) : (s.setI w).haltedFetch = s.haltedFetch := rfl
@[simp] theorem State.setI_fault (w : Word) : (s.setI w).fault = s.fault := rfl
@[simp] theorem State.setI_result (w : Word) : (s.setI w).result = s.result := rfl
@[simp] theorem State.setI_freeIndex (w : Word) : (s.setI w).freeIndex = s.freeIndex := rfl

/-! ### `State.setPc` -/

@[simp] theorem State.setPc_v (w : Word) : (s.setPc w).v = s.v := rfl
@[simp] theorem State.setPc_i (w : Word) : (s.setPc w).i = s.i := rfl
@[simp] theorem State.setPc_pc (w : Word) : (s.setPc w).pc = w := rfl
@[simp] theorem State.setPc_dt (w : Word) : (s.setPc w).dt = s.dt := rfl
@[simp] theorem State.setPc_st (w : Word) : (s.setPc w).st = s.st := rfl
@[simp] theorem State.setPc_stack (w : Word) : (s.setPc w).stack = s.stack := rfl
@[simp] theorem State.setPc_disp (w : Word) : (s.setPc w).disp = s.disp := rfl
@[simp] theorem State.setPc_mem (w : Word) : (s.setPc w).mem = s.mem := rfl
@[simp] theorem State.setPc_activeFont (w : Word) : (s.setPc w).activeFont = s.activeFont := rfl
@[simp] theorem State.setPc_haltedFetch (w : Word) : (s.setPc w).haltedFetch = s.haltedFetch := rfl
@[simp] theorem State.setPc_fault (w : Word) : (s.setPc w).fault = s.fault := rfl
@[simp] theorem State.setPc_result (w : Word) : (s.setPc w).result = s.result := rfl
@[simp] theorem State.setPc_freeIndex (w : Word) : (s.setPc w).freeIndex = s.freeIndex := rfl

/-! ### `State.setDT` -/

@[simp] theorem State.setDT_v (b : Byte) : (s.setDT b).v = s.v := rfl
@[simp] theorem State.setDT_i (b : Byte) : (s.setDT b).i = s.i := rfl
@[simp] theorem State.setDT_pc (b : Byte) : (s.setDT b).pc = s.pc := rfl
@[simp] theorem State.setDT_dt (b : Byte) : (s.setDT b).dt = b := rfl
@[simp] theorem State.setDT_st (b : Byte) : (s.setDT b).st = s.st := rfl
@[simp] theorem State.setDT_stack (b : Byte) : (s.setDT b).stack = s.stack := rfl
@[simp] theorem State.setDT_disp (b : Byte) : (s.setDT b).disp = s.disp := rfl
@[simp] theorem State.setDT_mem (b : Byte) : (s.setDT b).mem = s.mem := rfl
@[simp] theorem State.setDT_activeFont (b : Byte) : (s.setDT b).activeFont = s.activeFont := rfl
@[simp] theorem State.setDT_haltedFetch (b : Byte) : (s.setDT b).haltedFetch = s.haltedFetch := rfl
@[simp] theorem State.setDT_fault (b : Byte) : (s.setDT b).fault = s.fault := rfl
@[simp] theorem State.setDT_result (b : Byte) : (s.setDT b).result = s.result := rfl
@[simp] theorem State.setDT_freeIndex (b : Byte) : (s.setDT b).freeIndex = s.freeIndex := rfl

/-! ### `State.setST` -/

@[simp] theorem State.setST_v (b : Byte) : (s.setST b).v = s.v := rfl
@[simp] theorem State.setST_i (b : Byte) : (s.setST b).i = s.i := rfl
@[simp] theorem State.setST_pc (b : Byte) : (s.setST b).pc = s.pc := rfl
@[simp] theorem State.setST_dt (b : Byte) : (s.setST b).dt = s.dt := rfl
@[simp] theorem State.setST_st (b : Byte) : (s.setST b).st = b := rfl
@[simp] theorem State.setST_stack (b : Byte) : (s.setST b).stack = s.stack := rfl
@[simp] theorem State.setST_disp (b : Byte) : (s.setST b).disp = s.disp := rfl
@[simp] theorem State.setST_mem (b : Byte) : (s.setST b).mem = s.mem := rfl
@[simp] theorem State.setST_activeFont (b : Byte) : (s.setST b).activeFont = s.activeFont := rfl
@[simp] theorem State.setST_haltedFetch (b : Byte) : (s.setST b).haltedFetch = s.haltedFetch := rfl
@[simp] theorem State.setST_fault (b : Byte) : (s.setST b).fault = s.fault := rfl
@[simp] theorem State.setST_result (b : Byte) : (s.setST b).result = s.result := rfl
@[simp] theorem State.setST_freeIndex (b : Byte) : (s.setST b).freeIndex = s.freeIndex := rfl

/-! ### `State.setMem` -/

@[simp] theorem State.setMem_v (m : Memory) : (s.setMem m).v = s.v := rfl
@[simp] theorem State.setMem_i (m : Memory) : (s.setMem m).i = s.i := rfl
@[simp] theorem State.setMem_pc (m : Memory) : (s.setMem m).pc = s.pc := rfl
@[simp] theorem State.setMem_dt (m : Memory) : (s.setMem m).dt = s.dt := rfl
@[simp] theorem State.setMem_st (m : Memory) : (s.setMem m).st = s.st := rfl
@[simp] theorem State.setMem_stack (m : Memory) : (s.setMem m).stack = s.stack := rfl
@[simp] theorem State.setMem_disp (m : Memory) : (s.setMem m).disp = s.disp := rfl
@[simp] theorem State.setMem_mem (m : Memory) : (s.setMem m).mem = m := rfl
@[simp] theorem State.setMem_activeFont (m : Memory) : (s.setMem m).activeFont = s.activeFont := rfl
@[simp] theorem State.setMem_haltedFetch (m : Memory) : (s.setMem m).haltedFetch = s.haltedFetch := rfl
@[simp] theorem State.setMem_fault (m : Memory) : (s.setMem m).fault = s.fault := rfl
@[simp] theorem State.setMem_result (m : Memory) : (s.setMem m).result = s.result := rfl
@[simp] theorem State.setMem_freeIndex (m : Memory) : (s.setMem m).freeIndex = s.freeIndex := rfl

/-! ### `State.setDisp` -/

@[simp] theorem State.setDisp_v (d : Display) : (s.setDisp d).v = s.v := rfl
@[simp] theorem State.setDisp_i (d : Display) : (s.setDisp d).i = s.i := rfl
@[simp] theorem State.setDisp_pc (d : Display) : (s.setDisp d).pc = s.pc := rfl
@[simp] theorem State.setDisp_dt (d : Display) : (s.setDisp d).dt = s.dt := rfl
@[simp] theorem State.setDisp_st (d : Display) : (s.setDisp d).st = s.st := rfl
@[simp] theorem State.setDisp_stack (d : Display) : (s.setDisp d).stack = s.stack := rfl
@[simp] theorem State.setDisp_disp (d : Display) : (s.setDisp d).disp = d := rfl
@[simp] theorem State.setDisp_mem (d : Display) : (s.setDisp d).mem = s.mem := rfl
@[simp] theorem State.setDisp_activeFont (d : Display) : (s.setDisp d).activeFont = s.activeFont := rfl
@[simp] theorem State.setDisp_haltedFetch (d : Display) : (s.setDisp d).haltedFetch = s.haltedFetch := rfl
@[simp] theorem State.setDisp_fault (d : Display) : (s.setDisp d).fault = s.fault := rfl
@[simp] theorem State.setDisp_result (d : Display) : (s.setDisp d).result = s.result := rfl
@[simp] theorem State.setDisp_freeIndex (d : Display) : (s.setDisp d).freeIndex = s.freeIndex := rfl

/-! ### `State.advancePc` -/

@[simp] theorem State.advancePc_v : (s.advancePc).v = s.v := rfl
@[simp] theorem State.advancePc_i : (s.advancePc).i = s.i := rfl
@[simp] theorem State.advancePc_pc : (s.advancePc).pc = s.pc + 2#16 := rfl
@[simp] theorem State.advancePc_dt : (s.advancePc).dt = s.dt := rfl
@[simp] theorem State.advancePc_st : (s.advancePc).st = s.st := rfl
@[simp] theorem State.advancePc_stack : (s.advancePc).stack = s.stack := rfl
@[simp] theorem State.advancePc_disp : (s.advancePc).disp = s.disp := rfl
@[simp] theorem State.advancePc_mem : (s.advancePc).mem = s.mem := rfl
@[simp] theorem State.advancePc_activeFont : (s.advancePc).activeFont = s.activeFont := rfl
@[simp] theorem State.advancePc_haltedFetch : (s.advancePc).haltedFetch = s.haltedFetch := rfl
@[simp] theorem State.advancePc_fault : (s.advancePc).fault = s.fault := rfl
@[simp] theorem State.advancePc_result : (s.advancePc).result = s.result := rfl
@[simp] theorem State.advancePc_freeIndex : (s.advancePc).freeIndex = s.freeIndex := rfl

/-! ### `State.skip` -/

@[simp] theorem State.skip_v : (s.skip).v = s.v := rfl
@[simp] theorem State.skip_i : (s.skip).i = s.i := rfl
@[simp] theorem State.skip_pc : (s.skip).pc = s.pc + 2#16 := rfl
@[simp] theorem State.skip_dt : (s.skip).dt = s.dt := rfl
@[simp] theorem State.skip_st : (s.skip).st = s.st := rfl
@[simp] theorem State.skip_stack : (s.skip).stack = s.stack := rfl
@[simp] theorem State.skip_disp : (s.skip).disp = s.disp := rfl
@[simp] theorem State.skip_mem : (s.skip).mem = s.mem := rfl
@[simp] theorem State.skip_activeFont : (s.skip).activeFont = s.activeFont := rfl
@[simp] theorem State.skip_haltedFetch : (s.skip).haltedFetch = s.haltedFetch := rfl
@[simp] theorem State.skip_fault : (s.skip).fault = s.fault := rfl
@[simp] theorem State.skip_result : (s.skip).result = s.result := rfl
@[simp] theorem State.skip_freeIndex : (s.skip).freeIndex = s.freeIndex := rfl

/-! ### `State.failWith` -/

@[simp] theorem State.failWith_v (f : Status) : (s.failWith f).v = s.v := rfl
@[simp] theorem State.failWith_i (f : Status) : (s.failWith f).i = s.i := rfl
@[simp] theorem State.failWith_pc (f : Status) : (s.failWith f).pc = s.pc := rfl
@[simp] theorem State.failWith_dt (f : Status) : (s.failWith f).dt = s.dt := rfl
@[simp] theorem State.failWith_st (f : Status) : (s.failWith f).st = s.st := rfl
@[simp] theorem State.failWith_stack (f : Status) : (s.failWith f).stack = s.stack := rfl
@[simp] theorem State.failWith_disp (f : Status) : (s.failWith f).disp = s.disp := rfl
@[simp] theorem State.failWith_mem (f : Status) : (s.failWith f).mem = s.mem := rfl
@[simp] theorem State.failWith_activeFont (f : Status) : (s.failWith f).activeFont = s.activeFont := rfl
@[simp] theorem State.failWith_haltedFetch (f : Status) : (s.failWith f).haltedFetch = s.haltedFetch := rfl
@[simp] theorem State.failWith_fault (f : Status) : (s.failWith f).fault = s.fault := rfl
@[simp] theorem State.failWith_result (f : Status) :
    (s.failWith f).result = { s.result with status := f, displayMutated := false, soundWritten := false } :=
    rfl
@[simp] theorem State.failWith_freeIndex (f : Status) : (s.failWith f).freeIndex = s.freeIndex := rfl

/-! ### `State.markDisplay` -/

@[simp] theorem State.markDisplay_v : (s.markDisplay).v = s.v := rfl
@[simp] theorem State.markDisplay_i : (s.markDisplay).i = s.i := rfl
@[simp] theorem State.markDisplay_pc : (s.markDisplay).pc = s.pc := rfl
@[simp] theorem State.markDisplay_dt : (s.markDisplay).dt = s.dt := rfl
@[simp] theorem State.markDisplay_st : (s.markDisplay).st = s.st := rfl
@[simp] theorem State.markDisplay_stack : (s.markDisplay).stack = s.stack := rfl
@[simp] theorem State.markDisplay_disp : (s.markDisplay).disp = s.disp := rfl
@[simp] theorem State.markDisplay_mem : (s.markDisplay).mem = s.mem := rfl
@[simp] theorem State.markDisplay_activeFont : (s.markDisplay).activeFont = s.activeFont := rfl
@[simp] theorem State.markDisplay_haltedFetch : (s.markDisplay).haltedFetch = s.haltedFetch := rfl
@[simp] theorem State.markDisplay_fault : (s.markDisplay).fault = s.fault := rfl
@[simp] theorem State.markDisplay_result : (s.markDisplay).result = { s.result with displayMutated := true } := rfl
@[simp] theorem State.markDisplay_freeIndex : (s.markDisplay).freeIndex = s.freeIndex := rfl

/-! ### `State.markSound` -/

@[simp] theorem State.markSound_v : (s.markSound).v = s.v := rfl
@[simp] theorem State.markSound_i : (s.markSound).i = s.i := rfl
@[simp] theorem State.markSound_pc : (s.markSound).pc = s.pc := rfl
@[simp] theorem State.markSound_dt : (s.markSound).dt = s.dt := rfl
@[simp] theorem State.markSound_st : (s.markSound).st = s.st := rfl
@[simp] theorem State.markSound_stack : (s.markSound).stack = s.stack := rfl
@[simp] theorem State.markSound_disp : (s.markSound).disp = s.disp := rfl
@[simp] theorem State.markSound_mem : (s.markSound).mem = s.mem := rfl
@[simp] theorem State.markSound_activeFont : (s.markSound).activeFont = s.activeFont := rfl
@[simp] theorem State.markSound_haltedFetch : (s.markSound).haltedFetch = s.haltedFetch := rfl
@[simp] theorem State.markSound_fault : (s.markSound).fault = s.fault := rfl
@[simp] theorem State.markSound_result : (s.markSound).result = { s.result with soundWritten := true } := rfl
@[simp] theorem State.markSound_freeIndex : (s.markSound).freeIndex = s.freeIndex := rfl

/-! ### `State.nextFree` -/

@[simp] theorem State.nextFree_v : (s.nextFree).v = s.v := rfl
@[simp] theorem State.nextFree_i : (s.nextFree).i = s.i := rfl
@[simp] theorem State.nextFree_pc : (s.nextFree).pc = s.pc := rfl
@[simp] theorem State.nextFree_dt : (s.nextFree).dt = s.dt := rfl
@[simp] theorem State.nextFree_st : (s.nextFree).st = s.st := rfl
@[simp] theorem State.nextFree_stack : (s.nextFree).stack = s.stack := rfl
@[simp] theorem State.nextFree_disp : (s.nextFree).disp = s.disp := rfl
@[simp] theorem State.nextFree_mem : (s.nextFree).mem = s.mem := rfl
@[simp] theorem State.nextFree_activeFont : (s.nextFree).activeFont = s.activeFont := rfl
@[simp] theorem State.nextFree_haltedFetch : (s.nextFree).haltedFetch = s.haltedFetch := rfl
@[simp] theorem State.nextFree_fault : (s.nextFree).fault = s.fault := rfl
@[simp] theorem State.nextFree_result : (s.nextFree).result = s.result := rfl
@[simp] theorem State.nextFree_freeIndex : (s.nextFree).freeIndex = s.freeIndex + 1 := rfl

/-! ### `State.beginCycle` -/

@[simp] theorem State.beginCycle_v (op : Word) : (s.beginCycle op).v = s.v := rfl
@[simp] theorem State.beginCycle_i (op : Word) : (s.beginCycle op).i = s.i := rfl
@[simp] theorem State.beginCycle_pc (op : Word) : (s.beginCycle op).pc = s.pc + 2#16 := rfl
@[simp] theorem State.beginCycle_dt (op : Word) : (s.beginCycle op).dt = s.dt := rfl
@[simp] theorem State.beginCycle_st (op : Word) : (s.beginCycle op).st = s.st := rfl
@[simp] theorem State.beginCycle_stack (op : Word) : (s.beginCycle op).stack = s.stack := rfl
@[simp] theorem State.beginCycle_disp (op : Word) : (s.beginCycle op).disp = s.disp := rfl
@[simp] theorem State.beginCycle_mem (op : Word) : (s.beginCycle op).mem = s.mem := rfl
@[simp] theorem State.beginCycle_activeFont (op : Word) : (s.beginCycle op).activeFont = s.activeFont := rfl
@[simp] theorem State.beginCycle_haltedFetch (op : Word) : (s.beginCycle op).haltedFetch = s.haltedFetch := rfl
@[simp] theorem State.beginCycle_fault (op : Word) : (s.beginCycle op).fault = s.fault := rfl
@[simp] theorem State.beginCycle_result (op : Word) : (s.beginCycle op).result = StepResult.start op := rfl
@[simp] theorem State.beginCycle_freeIndex (op : Word) : (s.beginCycle op).freeIndex = s.freeIndex := rfl

/-! ### `State.modelFaulted` -/

@[simp] theorem State.modelFaulted_v : (s.modelFaulted).v = s.v := rfl
@[simp] theorem State.modelFaulted_i : (s.modelFaulted).i = s.i := rfl
@[simp] theorem State.modelFaulted_pc : (s.modelFaulted).pc = s.pc + 2#16 := rfl
@[simp] theorem State.modelFaulted_dt : (s.modelFaulted).dt = s.dt := rfl
@[simp] theorem State.modelFaulted_st : (s.modelFaulted).st = s.st := rfl
@[simp] theorem State.modelFaulted_stack : (s.modelFaulted).stack = s.stack := rfl
@[simp] theorem State.modelFaulted_disp : (s.modelFaulted).disp = s.disp := rfl
@[simp] theorem State.modelFaulted_mem : (s.modelFaulted).mem = s.mem := rfl
@[simp] theorem State.modelFaulted_activeFont : (s.modelFaulted).activeFont = s.activeFont := rfl
@[simp] theorem State.modelFaulted_haltedFetch : (s.modelFaulted).haltedFetch = s.haltedFetch := rfl
@[simp] theorem State.modelFaulted_fault : (s.modelFaulted).fault = true := rfl
@[simp] theorem State.modelFaulted_result : (s.modelFaulted).result = s.result := rfl
@[simp] theorem State.modelFaulted_freeIndex : (s.modelFaulted).freeIndex = s.freeIndex := rfl

/-! ### `State.fetchFailed` -/

@[simp] theorem State.fetchFailed_v : (s.fetchFailed).v = s.v := rfl
@[simp] theorem State.fetchFailed_i : (s.fetchFailed).i = s.i := rfl
@[simp] theorem State.fetchFailed_pc : (s.fetchFailed).pc = s.pc + 2#16 := rfl
@[simp] theorem State.fetchFailed_dt : (s.fetchFailed).dt = s.dt := rfl
@[simp] theorem State.fetchFailed_st : (s.fetchFailed).st = s.st := rfl
@[simp] theorem State.fetchFailed_stack : (s.fetchFailed).stack = s.stack := rfl
@[simp] theorem State.fetchFailed_disp : (s.fetchFailed).disp = s.disp := rfl
@[simp] theorem State.fetchFailed_mem : (s.fetchFailed).mem = s.mem := rfl
@[simp] theorem State.fetchFailed_activeFont : (s.fetchFailed).activeFont = s.activeFont := rfl
@[simp] theorem State.fetchFailed_haltedFetch : (s.fetchFailed).haltedFetch = true := rfl
@[simp] theorem State.fetchFailed_fault : (s.fetchFailed).fault = s.fault := rfl
@[simp] theorem State.fetchFailed_result :
    (s.fetchFailed).result = { status := .fetchFailed, opcode := Config.fetchFailedOpcode s.freeIndex, displayMutated := false, soundWritten := false } :=
    rfl
@[simp] theorem State.fetchFailed_freeIndex : (s.fetchFailed).freeIndex = s.freeIndex + 1 := rfl

/-! ### `State.tick` -/

@[simp] theorem State.tick_v : (s.tick).v = s.v := rfl
@[simp] theorem State.tick_i : (s.tick).i = s.i := rfl
@[simp] theorem State.tick_pc : (s.tick).pc = s.pc := rfl
@[simp] theorem State.tick_dt : (s.tick).dt = tickTimer s.dt := rfl
@[simp] theorem State.tick_st : (s.tick).st = tickTimer s.st := rfl
@[simp] theorem State.tick_stack : (s.tick).stack = s.stack := rfl
@[simp] theorem State.tick_disp : (s.tick).disp = s.disp := rfl
@[simp] theorem State.tick_mem : (s.tick).mem = s.mem := rfl
@[simp] theorem State.tick_activeFont : (s.tick).activeFont = s.activeFont := rfl
@[simp] theorem State.tick_haltedFetch : (s.tick).haltedFetch = s.haltedFetch := rfl
@[simp] theorem State.tick_fault : (s.tick).fault = s.fault := rfl
@[simp] theorem State.tick_result : (s.tick).result = s.result := rfl
@[simp] theorem State.tick_freeIndex : (s.tick).freeIndex = s.freeIndex := rfl

end Sys2Proof.Machine
end

