-- ==== Sys2Proof/Laws/Ops.lean ====
section
/-! SUPPORT. What each shared operation over registers, the stack, the fetch and the operand forms can do, once. -/

namespace Sys2Proof.Machine

/-! ### Registers -/

/-- What a register reads as after a register write. -/
theorem State.getV_setV (s : State) (x : Reg) (b : Byte) (r : Reg) :
    (s.setV x b).getV r = if r = x then b else s.getV r := by
  unfold State.getV State.setV
  simp only [Vector.getElem_set]
  by_cases h : r = x
  · simp [h]
  · have : x.toNat ≠ r.toNat := fun e => h (BitVec.eq_of_toNat_eq e.symm)
    simp [h, this]

@[simp] theorem State.getV_setV_same (s : State) (x : Reg) (b : Byte) : (s.setV x b).getV x = b := by
  simp [State.getV_setV]

theorem State.getV_setV_ne (s : State) {x r : Reg} (b : Byte) (h : r ≠ x) : (s.setV x b).getV r = s.getV r := by
  simp [State.getV_setV, h]

/-- States with the same register file read the same. -/
theorem State.getV_congr {s t : State} (h : t.v = s.v) (r : Reg) : t.getV r = s.getV r := by
  simp [State.getV, h]

@[simp] theorem State.getV_setI (s : State) (w : Word) (r : Reg) : (s.setI w).getV r = s.getV r := rfl
@[simp] theorem State.getV_setPc (s : State) (w : Word) (r : Reg) : (s.setPc w).getV r = s.getV r := rfl
@[simp] theorem State.getV_setDT (s : State) (b : Byte) (r : Reg) : (s.setDT b).getV r = s.getV r := rfl
@[simp] theorem State.getV_setST (s : State) (b : Byte) (r : Reg) : (s.setST b).getV r = s.getV r := rfl
@[simp] theorem State.getV_setMem (s : State) (m : Memory) (r : Reg) : (s.setMem m).getV r = s.getV r := rfl
@[simp] theorem State.getV_setDisp (s : State) (d : Display) (r : Reg) : (s.setDisp d).getV r = s.getV r := rfl
@[simp] theorem State.getV_advancePc (s : State) (r : Reg) : s.advancePc.getV r = s.getV r := rfl
@[simp] theorem State.getV_skip (s : State) (r : Reg) : s.skip.getV r = s.getV r := rfl
@[simp] theorem State.getV_failWith (s : State) (f : Status) (r : Reg) : (s.failWith f).getV r = s.getV r := rfl
@[simp] theorem State.getV_markDisplay (s : State) (r : Reg) : s.markDisplay.getV r = s.getV r := rfl
@[simp] theorem State.getV_markSound (s : State) (r : Reg) : s.markSound.getV r = s.getV r := rfl
@[simp] theorem State.getV_nextFree (s : State) (r : Reg) : s.nextFree.getV r = s.getV r := rfl
@[simp] theorem State.getV_beginCycle (s : State) (op : Word) (r : Reg) : (s.beginCycle op).getV r = s.getV r := rfl
@[simp] theorem State.getV_fetchFailed (s : State) (r : Reg) : s.fetchFailed.getV r = s.getV r := rfl
@[simp] theorem State.getV_modelFaulted (s : State) (r : Reg) : s.modelFaulted.getV r = s.getV r := rfl

/-- A result with its flag: VF holds the flag, the destination the result unless it is VF, every other register is kept. -/
theorem State.getV_writeFlagged (s : State) (x : Reg) (b : Byte) (f : Bool) (r : Reg) :
    (s.writeFlagged x b f).getV r = if r = regVF then flagByte f else if r = x then b else s.getV r := by
  simp [State.writeFlagged, State.getV_setV]

/-- A result with its flag writes the register file and nothing else. -/
theorem State.writeFlagged_eq (s : State) (x : Reg) (b : Byte) (f : Bool) :
    s.writeFlagged x b f = { s with v := (s.writeFlagged x b f).v } := rfl

@[simp] theorem State.writeFlagged_i (s : State) (x : Reg) (b : Byte) (c : Bool) : (s.writeFlagged x b c).i = s.i := rfl
@[simp] theorem State.writeFlagged_pc (s : State) (x : Reg) (b : Byte) (c : Bool) : (s.writeFlagged x b c).pc = s.pc := rfl
@[simp] theorem State.writeFlagged_dt (s : State) (x : Reg) (b : Byte) (c : Bool) : (s.writeFlagged x b c).dt = s.dt := rfl
@[simp] theorem State.writeFlagged_st (s : State) (x : Reg) (b : Byte) (c : Bool) : (s.writeFlagged x b c).st = s.st := rfl
@[simp] theorem State.writeFlagged_stack (s : State) (x : Reg) (b : Byte) (c : Bool) : (s.writeFlagged x b c).stack = s.stack := rfl
@[simp] theorem State.writeFlagged_disp (s : State) (x : Reg) (b : Byte) (c : Bool) : (s.writeFlagged x b c).disp = s.disp := rfl
@[simp] theorem State.writeFlagged_mem (s : State) (x : Reg) (b : Byte) (c : Bool) : (s.writeFlagged x b c).mem = s.mem := rfl
@[simp] theorem State.writeFlagged_activeFont (s : State) (x : Reg) (b : Byte) (c : Bool) : (s.writeFlagged x b c).activeFont = s.activeFont := rfl
@[simp] theorem State.writeFlagged_haltedFetch (s : State) (x : Reg) (b : Byte) (c : Bool) : (s.writeFlagged x b c).haltedFetch = s.haltedFetch := rfl
@[simp] theorem State.writeFlagged_fault (s : State) (x : Reg) (b : Byte) (c : Bool) : (s.writeFlagged x b c).fault = s.fault := rfl
@[simp] theorem State.writeFlagged_result (s : State) (x : Reg) (b : Byte) (c : Bool) : (s.writeFlagged x b c).result = s.result := rfl
@[simp] theorem State.writeFlagged_freeIndex (s : State) (x : Reg) (b : Byte) (c : Bool) : (s.writeFlagged x b c).freeIndex = s.freeIndex := rfl

/-- A skip writes the pc and nothing else. -/
theorem State.skipIf_eq (s : State) (c : Bool) : s.skipIf c = s.setPc (if c then s.pc + 2#16 else s.pc) := by
  cases c <;> rfl

/-! ### The return stack -/

/-- A push appends its entry when fewer than 16 are held, and fails otherwise. -/
theorem State.push_eq_some {s t : State} {w : Word} :
    s.push w = some t ↔ s.stack.length < stackDepth ∧ t = { s with stack := s.stack ++ [w] } := by
  unfold State.push
  split <;> simp_all [eq_comm]

theorem State.push_eq_none {s : State} {w : Word} : s.push w = none ↔ stackDepth ≤ s.stack.length := by
  unfold State.push
  split <;> simp_all

/-- A pop takes the last entry. -/
theorem State.pop_eq_some {s t : State} {w : Word} :
    s.pop = some (w, t) ↔ ∃ ws, s.stack = ws ++ [w] ∧ t = { s with stack := ws } := by
  unfold State.pop
  constructor
  · intro h
    split at h
    · rename_i w' hw
      obtain ⟨rfl, rfl⟩ := Prod.mk.injEq _ _ _ _ ▸ Option.some.inj h
      refine ⟨s.stack.dropLast, ?_, rfl⟩
      obtain ⟨ys, hy⟩ := List.getLast?_eq_some_iff.1 hw
      simp [hy]
    · cases h
  · rintro ⟨ws, h, rfl⟩
    simp [h]

theorem State.pop_eq_none {s : State} : s.pop = none ↔ s.stack = [] := by
  unfold State.pop
  split
  · rename_i w hw
    obtain ⟨ys, hy⟩ := List.getLast?_eq_some_iff.1 hw
    simp [hy]
  · rename_i hw
    simpa using hw

/-! ### The fetch -/

/-- The fetch succeeds exactly when both bytes are in memory, and is big-endian (40 R132, R134). -/
theorem State.fetch_eq (s : State) :
    s.fetch = if s.pc.toNat ≤ 4094 then some (be16 (s.mem.read s.pc.toNat) (s.mem.read (s.pc.toNat + 1))) else none := by
  unfold State.fetch Memory.readRange
  by_cases h : s.pc.toNat ≤ 4094
  · have h1 : s.pc.toNat + 2 ≤ memSize := by show _ ≤ 4096; omega
    simp [h, h1, List.range_succ]
  · have h1 : ¬s.pc.toNat + 2 ≤ memSize := by show ¬_ ≤ 4096; omega
    simp [h, h1]

/-- A word placed at a fetchable pc is the word fetched (20 R78, R89). -/
theorem State.fetch_placeWord {s : State} {op : Word} (hm : s.mem.wf = true) (hp : s.pc.toNat ≤ 4094) :
    (s.placeWord (wordBytes op)).fetch = some op := by
  have hb : s.pc.toNat + (wordBytes op).length ≤ memSize := by show _ + 2 ≤ 4096; omega
  have he : s.placeWord (wordBytes op) = s.setMem (s.mem.writeAll s.pc.toNat (wordBytes op)) := by
    simp only [State.placeWord, Memory.writeRange, if_pos hb, Option.getD_some]
  rw [he, State.fetch_eq]
  simp only [State.setMem_pc, State.setMem_mem, hp, if_true, Memory.read_writeAll hm hb]
  simp [wordBytes, be16_wordBytes]

/-! ### Operand forms -/

/-- The legacy increment writes I and nothing else. -/
theorem advanceIndex_eq (inc : Bool) (x : Reg) (s : State) :
    advanceIndex inc x s = s.setI (if inc then s.i + BitVec.ofNat 16 (transferCount x) else s.i) := by
  cases inc <;> rfl

/-- The bytes LD [I] stores: one for each of V0..Vx, in order. -/
theorem firstRegisters_length (x : Reg) (s : State) : (firstRegisters x s).length = transferCount x := by
  simp [firstRegisters]

theorem firstRegisters_getD (x : Reg) (s : State) {k : Nat} (h : k ≤ x.toNat) :
    (firstRegisters x s).getD k 0#8 = s.getV (BitVec.ofNat 4 k) := by
  have : k < transferCount x := by simp only [transferCount]; omega
  simp [firstRegisters, this]

/-- The registers LD Vx, [I] loads: register r from byte r - k, for the registers k, k+1, ... a byte is there for. -/
theorem getV_loadRegistersFrom (bs : List Byte) (k : Nat) (s : State) (h : k + bs.length ≤ 16) (r : Reg) :
    (loadRegistersFrom k bs s).getV r =
      if k ≤ r.toNat ∧ r.toNat < k + bs.length then bs.getD (r.toNat - k) 0#8 else s.getV r := by
  induction bs generalizing k s with
  | nil =>
    have : ¬(k ≤ r.toNat ∧ r.toNat < k + 0) := by omega
    simp [loadRegistersFrom]
  | cons b bs ih =>
    simp only [List.length_cons] at h ⊢
    simp only [loadRegistersFrom]
    rw [ih (k + 1) _ (by omega), State.getV_setV]
    have hk : (BitVec.ofNat 4 k).toNat = k := by
      simp only [BitVec.toNat_ofNat]
      omega
    by_cases h1 : r.toNat = k
    · have h2 : r = BitVec.ofNat 4 k := BitVec.eq_of_toNat_eq (by omega)
      have h3 : ¬(k + 1 ≤ r.toNat ∧ r.toNat < k + 1 + bs.length) := by omega
      have h4 : k ≤ r.toNat ∧ r.toNat < k + (bs.length + 1) := by omega
      rw [if_neg h3, if_pos h2, if_pos h4, h1]
      simp
    · have h2 : r ≠ BitVec.ofNat 4 k := fun e => h1 (by rw [e, hk])
      rw [if_neg h2]
      by_cases h3 : k + 1 ≤ r.toNat ∧ r.toNat < k + 1 + bs.length
      · have h4 : k ≤ r.toNat ∧ r.toNat < k + (bs.length + 1) := by omega
        have h5 : r.toNat - k = (r.toNat - (k + 1)) + 1 := by omega
        rw [if_pos h3, if_pos h4, h5]
        rfl
      · have h4 : ¬(k ≤ r.toNat ∧ r.toNat < k + (bs.length + 1)) := by omega
        rw [if_neg h3, if_neg h4]

/-- Loading registers writes the register file and nothing else. -/
theorem loadRegistersFrom_eq (bs : List Byte) (k : Nat) (s : State) :
    loadRegistersFrom k bs s = { s with v := (loadRegistersFrom k bs s).v } := by
  induction bs generalizing k s with
  | nil => rfl
  | cons b bs ih =>
    simp only [loadRegistersFrom]
    rw [ih]
    rfl

/-- A store at I either fails, exactly when its range leaves memory, or writes every byte and nothing but memory. -/
theorem State.storeAtI_eq_some {s t : State} {bs : List Byte} :
    s.storeAtI bs = some t ↔ s.i.toNat + bs.length ≤ memSize ∧ t = s.setMem (s.mem.writeAll s.i.toNat bs) := by
  simp only [State.storeAtI, Option.map_eq_some_iff, Memory.writeRange_eq_some]
  constructor
  · rintro ⟨m, ⟨h, rfl⟩, rfl⟩
    exact ⟨h, rfl⟩
  · rintro ⟨h, rfl⟩
    exact ⟨_, ⟨h, rfl⟩, rfl⟩

theorem State.storeAtI_eq_none {s : State} {bs : List Byte} :
    s.storeAtI bs = none ↔ memSize < s.i.toNat + bs.length := by
  simp [State.storeAtI, Memory.writeRange_eq_none]

end Sys2Proof.Machine
end

