-- ==== Sys2Proof/Laws/PerInstr.lean ====
section
/-! SUPPORT. Facts about each instruction as syntax, one lemma per constructor. -/

namespace Sys2Proof.Laws.RowTakesEncoding

/-- The row of the opcode table an instruction stands for takes the instruction's opcode, with every operand at every value. -/
def Statement (i : Instr) : Prop := i.row.takes (encode i) = true

/-- A row that fixes the group takes every opcode of the group. -/
theorem takes_of_group (g : Nibble) {r : OpcodeRow} {op : Word} (hm : r.mask = 0xF000#16) (hp : r.pattern = wordNNN g 0#12)
    (hg : opGroup op = g) : r.takes op = true := by
  simp [OpcodeRow.takes, hm, hp, and_mask_group, hg]

/-- A row that fixes the group and the low nibble takes every opcode with both. -/
theorem takes_of_nibble (g n : Nibble) {r : OpcodeRow} {op : Word} (hm : r.mask = 0xF00F#16)
    (hp : r.pattern = wordXYN g 0#4 0#4 n) (hg : opGroup op = g) (hn : opN op = n) : r.takes op = true := by
  simp [OpcodeRow.takes, hm, hp, and_mask_group_n, hg, hn]

/-- A row that fixes the group and the low byte takes every opcode with both. -/
theorem takes_of_byte (g : Nibble) (kk : Byte) {r : OpcodeRow} {op : Word} (hm : r.mask = 0xF0FF#16)
    (hp : r.pattern = wordXKK g 0#4 kk) (hg : opGroup op = g) (hk : opKK op = kk) : r.takes op = true := by
  simp [OpcodeRow.takes, hm, hp, and_mask_group_kk, hg, hk]

theorem cls : Statement .cls :=
  rfl

theorem ret : Statement .ret :=
  rfl

theorem sys (nnn : Addr) : Statement (.sys nnn) :=
  takes_of_group 0x0#4 rfl rfl (opGroup_wordNNN _ _)

theorem jp (nnn : Addr) : Statement (.jp nnn) :=
  takes_of_group 0x1#4 rfl rfl (opGroup_wordNNN _ _)

theorem call (nnn : Addr) : Statement (.call nnn) :=
  takes_of_group 0x2#4 rfl rfl (opGroup_wordNNN _ _)

theorem seImm (x : Reg) (kk : Byte) : Statement (.seImm x kk) :=
  takes_of_group 0x3#4 rfl rfl (opGroup_wordXKK _ _ _)

theorem sneImm (x : Reg) (kk : Byte) : Statement (.sneImm x kk) :=
  takes_of_group 0x4#4 rfl rfl (opGroup_wordXKK _ _ _)

theorem seReg (x y : Reg) (z : Nibble) : Statement (.seReg x y z) :=
  takes_of_group 0x5#4 rfl rfl (opGroup_wordXYN _ _ _ _)

theorem ldImm (x : Reg) (kk : Byte) : Statement (.ldImm x kk) :=
  takes_of_group 0x6#4 rfl rfl (opGroup_wordXKK _ _ _)

theorem addImm (x : Reg) (kk : Byte) : Statement (.addImm x kk) :=
  takes_of_group 0x7#4 rfl rfl (opGroup_wordXKK _ _ _)

theorem ldReg (x y : Reg) : Statement (.ldReg x y) :=
  takes_of_nibble 0x8#4 0x0#4 rfl rfl (opGroup_wordXYN _ _ _ _) (opN_wordXYN _ _ _ _)

theorem orReg (x y : Reg) : Statement (.orReg x y) :=
  takes_of_nibble 0x8#4 0x1#4 rfl rfl (opGroup_wordXYN _ _ _ _) (opN_wordXYN _ _ _ _)

theorem andReg (x y : Reg) : Statement (.andReg x y) :=
  takes_of_nibble 0x8#4 0x2#4 rfl rfl (opGroup_wordXYN _ _ _ _) (opN_wordXYN _ _ _ _)

theorem xorReg (x y : Reg) : Statement (.xorReg x y) :=
  takes_of_nibble 0x8#4 0x3#4 rfl rfl (opGroup_wordXYN _ _ _ _) (opN_wordXYN _ _ _ _)

theorem addReg (x y : Reg) : Statement (.addReg x y) :=
  takes_of_nibble 0x8#4 0x4#4 rfl rfl (opGroup_wordXYN _ _ _ _) (opN_wordXYN _ _ _ _)

theorem sub (x y : Reg) : Statement (.sub x y) :=
  takes_of_nibble 0x8#4 0x5#4 rfl rfl (opGroup_wordXYN _ _ _ _) (opN_wordXYN _ _ _ _)

theorem shr (x y : Reg) : Statement (.shr x y) :=
  takes_of_nibble 0x8#4 0x6#4 rfl rfl (opGroup_wordXYN _ _ _ _) (opN_wordXYN _ _ _ _)

theorem subn (x y : Reg) : Statement (.subn x y) :=
  takes_of_nibble 0x8#4 0x7#4 rfl rfl (opGroup_wordXYN _ _ _ _) (opN_wordXYN _ _ _ _)

theorem shl (x y : Reg) : Statement (.shl x y) :=
  takes_of_nibble 0x8#4 0xE#4 rfl rfl (opGroup_wordXYN _ _ _ _) (opN_wordXYN _ _ _ _)

theorem invalid8 (x y : Reg) (s : Nibble) : Statement (.invalid8 x y s) :=
  takes_of_group 0x8#4 rfl rfl (opGroup_wordXYN _ _ _ _)

theorem sneReg (x y : Reg) (z : Nibble) : Statement (.sneReg x y z) :=
  takes_of_group 0x9#4 rfl rfl (opGroup_wordXYN _ _ _ _)

theorem ldI (nnn : Addr) : Statement (.ldI nnn) :=
  takes_of_group 0xA#4 rfl rfl (opGroup_wordNNN _ _)

theorem jpV0 (nnn : Addr) : Statement (.jpV0 nnn) :=
  takes_of_group 0xB#4 rfl rfl (opGroup_wordNNN _ _)

theorem rnd (x : Reg) (kk : Byte) : Statement (.rnd x kk) :=
  takes_of_group 0xC#4 rfl rfl (opGroup_wordXKK _ _ _)

theorem drw (x y : Reg) (n : Nibble) : Statement (.drw x y n) :=
  takes_of_group 0xD#4 rfl rfl (opGroup_wordXYN _ _ _ _)

theorem skp (x : Reg) : Statement (.skp x) :=
  takes_of_byte 0xE#4 0x9E#8 rfl rfl (opGroup_wordXKK _ _ _) (opKK_wordXKK _ _ _)

theorem sknp (x : Reg) : Statement (.sknp x) :=
  takes_of_byte 0xE#4 0xA1#8 rfl rfl (opGroup_wordXKK _ _ _) (opKK_wordXKK _ _ _)

theorem invalidE (x : Reg) (ss : Byte) : Statement (.invalidE x ss) :=
  takes_of_group 0xE#4 rfl rfl (opGroup_wordXKK _ _ _)

theorem ldFromDt (x : Reg) : Statement (.ldFromDt x) :=
  takes_of_byte 0xF#4 0x07#8 rfl rfl (opGroup_wordXKK _ _ _) (opKK_wordXKK _ _ _)

theorem ldK (x : Reg) : Statement (.ldK x) :=
  takes_of_byte 0xF#4 0x0A#8 rfl rfl (opGroup_wordXKK _ _ _) (opKK_wordXKK _ _ _)

theorem ldDt (x : Reg) : Statement (.ldDt x) :=
  takes_of_byte 0xF#4 0x15#8 rfl rfl (opGroup_wordXKK _ _ _) (opKK_wordXKK _ _ _)

theorem ldSt (x : Reg) : Statement (.ldSt x) :=
  takes_of_byte 0xF#4 0x18#8 rfl rfl (opGroup_wordXKK _ _ _) (opKK_wordXKK _ _ _)

theorem addI (x : Reg) : Statement (.addI x) :=
  takes_of_byte 0xF#4 0x1E#8 rfl rfl (opGroup_wordXKK _ _ _) (opKK_wordXKK _ _ _)

theorem ldF (x : Reg) : Statement (.ldF x) :=
  takes_of_byte 0xF#4 0x29#8 rfl rfl (opGroup_wordXKK _ _ _) (opKK_wordXKK _ _ _)

theorem ldB (x : Reg) : Statement (.ldB x) :=
  takes_of_byte 0xF#4 0x33#8 rfl rfl (opGroup_wordXKK _ _ _) (opKK_wordXKK _ _ _)

theorem stRegs (x : Reg) : Statement (.stRegs x) :=
  takes_of_byte 0xF#4 0x55#8 rfl rfl (opGroup_wordXKK _ _ _) (opKK_wordXKK _ _ _)

theorem ldRegs (x : Reg) : Statement (.ldRegs x) :=
  takes_of_byte 0xF#4 0x65#8 rfl rfl (opGroup_wordXKK _ _ _) (opKK_wordXKK _ _ _)

theorem invalidF (x : Reg) (ss : Byte) : Statement (.invalidF x ss) :=
  takes_of_group 0xF#4 rfl rfl (opGroup_wordXKK _ _ _)

end Sys2Proof.Laws.RowTakesEncoding
end

