-- ==== Sys2Proof/Laws/Ports.lean ====
section
/-! SUPPORT. The loads: what the supplier's answer loads, where the font region lies, and that every load and construction
leave memory in canonical form. -/

namespace Sys2Proof.Machine

/-- The font region has at least 80 bytes. -/
theorem fontRegionSize_ge : 80 ≤ Config.fontRegionSize := Nat.le_add_right _ _

/-- The font region ends at or below the program origin (20 R82). -/
theorem fontRegion_end : Config.fontBase + Config.fontRegionSize ≤ 0x200 := by
  have h1 := Config.fontBaseChoice.isLt
  have h2 := Config.fontSlackChoice.isLt
  unfold Config.fontBase Config.fontRegionSize
  omega

/-- The bytes a font load takes are the supplier's, at least one and no more than the region holds. -/
theorem acceptedFont_eq_some {answer : Option (List Byte)} {bs : List Byte} :
    acceptedFont answer = some bs ↔ answer = some bs ∧ 1 ≤ bs.length ∧ bs.length ≤ Config.fontRegionSize := by
  cases answer with
  | none => simp [acceptedFont]
  | some bs' =>
    by_cases h : 1 ≤ bs'.length ∧ bs'.length ≤ Config.fontRegionSize
    · simp only [acceptedFont, if_pos h, Option.some.injEq]
      constructor
      · rintro rfl
        exact ⟨rfl, h⟩
      · exact And.left
    · simp only [acceptedFont, if_neg h, Option.some.injEq, reduceCtorEq, false_iff]
      rintro ⟨rfl, h'⟩
      exact h h'

/-- The bytes re-applied fit in the font region. -/
theorem activeFontBytes_length (font : Option FontId) : (activeFontBytes font).length ≤ Config.fontRegionSize := by
  unfold activeFontBytes
  cases h : acceptedFont (font.bind Config.fontData) with
  | none => simp
  | some bs => simpa using (acceptedFont_eq_some.1 h).2.2

/-- Memory with the font written is in canonical form. -/
theorem wf_writeFont {m : Memory} {bs : List Byte} (hm : m.wf = true) (h : bs.length ≤ Config.fontRegionSize) :
    (m.writeAll Config.fontBase bs).wf = true := by
  have := fontRegion_end
  exact Memory.wf_writeAll hm (by show _ ≤ 4096; omega)

/-- Memory after an accepted program load is in canonical form. -/
theorem wf_loadedMemory {font : Option FontId} {reapply : Bool} {buf : List Byte} (h : buf.length ≤ progMax) :
    (loadedMemory font reapply buf).wf = true := by
  unfold loadedMemory
  have hb : progOrigin.toNat + buf.length ≤ memSize := by
    have : buf.length ≤ 3584 := h
    show 512 + _ ≤ 4096
    omega
  refine Memory.wf_writeAll ?_ hb
  cases reapply with
  | false => exact Memory.wf_nil
  | true => exact wf_writeFont Memory.wf_nil (activeFontBytes_length font)

theorem wfFrom_ofBytes_range' (f : Nat → Byte) (n lo : Nat) (h : lo + n ≤ memSize) :
    Memory.wfFrom lo (((List.range' lo n).map fun a => (a, f a)).filter fun c => !(c.2 == Memory.unlisted)) = true := by
  induction n generalizing lo with
  | zero => rfl
  | succ n ih =>
    have hlo : lo < memSize := by omega
    have := ih (lo + 1) (by omega)
    by_cases hb : f lo = Memory.unlisted
    · simpa [List.range'_succ, hb] using Memory.wfFrom_mono (Nat.le_succ lo) this
    · simpa [List.range'_succ, hb, Memory.wfFrom, hlo] using this

/-- Memory at construction is in canonical form, whatever its bytes. -/
theorem wf_ofBytes (f : Nat → Byte) {n : Nat} (h : n ≤ memSize) : (Memory.ofBytes f n).wf = true := by
  unfold Memory.ofBytes Memory.wf
  rw [List.range_eq_range']
  exact wfFrom_ofBytes_range' f n 0 (by omega)

end Sys2Proof.Machine
end

