-- ==== Sys2Proof/Laws/Step.lean ====
section
/-! SUPPORT. What a step can do: the equation of each of its cases, and the one inversion lemma. -/

namespace Sys2Proof.Machine

/-- The run's configuration is never refused (00 R8, 10 R54). -/
@[simp] theorem quirks_subLegacy : Config.quirks.subLegacy = false := rfl

/-! ### The step under any configuration and meaning -/

theorem stepBy_of_refused {q : Quirks} {x : Instr → State → StepOutcome} {s : State} (h : q.subLegacy = true) :
    stepBy q x s = .refused .quirkSubLegacy := by
  simp [stepBy, h]

theorem stepBy_of_fault {q : Quirks} {x : Instr → State → StepOutcome} {s : State} (hq : q.subLegacy = false)
    (h : s.fault = true) : stepBy q x s = .fault .stuckAfterModelFault := by
  simp [stepBy, hq, h]

theorem stepBy_of_halted {q : Quirks} {x : Instr → State → StepOutcome} {s : State} (hq : q.subLegacy = false)
    (h : s.fault = false) (h' : s.haltedFetch = true) : stepBy q x s = .fault .stuckAfterFetchFailed := by
  simp [stepBy, hq, h, h']

theorem stepBy_of_fetch {q : Quirks} {x : Instr → State → StepOutcome} {s : State} {op : Word} (hq : q.subLegacy = false)
    (h : s.fault = false) (h' : s.haltedFetch = false) (hf : s.fetch = some op) :
    stepBy q x s = x (decode op) (s.beginCycle op) := by
  simp [stepBy, hq, h, h', hf]

theorem stepBy_of_fetch_none {q : Quirks} {x : Instr → State → StepOutcome} {s : State} (hq : q.subLegacy = false)
    (h : s.fault = false) (h' : s.haltedFetch = false) (hf : s.fetch = none) : stepBy q x s = .next s.fetchFailed := by
  simp [stepBy, hq, h, h', hf]

/-- A step that answers a next state is a failed fetch or an instruction, of an enabled engine whose configuration is not
refused. -/
theorem stepBy_cases {q : Quirks} {x : Instr → State → StepOutcome} {s t : State} (h : stepBy q x s = .next t) :
    q.subLegacy = false ∧ s.fault = false ∧ s.haltedFetch = false ∧
      ((s.fetch = none ∧ t = s.fetchFailed) ∨ ∃ op, s.fetch = some op ∧ x (decode op) (s.beginCycle op) = .next t) := by
  cases hq : q.subLegacy with
  | true => simp [stepBy_of_refused hq] at h
  | false =>
    cases hf : s.fault with
    | true => simp [stepBy_of_fault hq hf] at h
    | false =>
      cases hh : s.haltedFetch with
      | true => simp [stepBy_of_halted hq hf hh] at h
      | false =>
        refine ⟨rfl, rfl, rfl, ?_⟩
        cases he : s.fetch with
        | none =>
          rw [stepBy_of_fetch_none hq hf hh he] at h
          exact Or.inl ⟨rfl, (Host.Outcome.next.inj h).symm⟩
        | some op =>
          rw [stepBy_of_fetch hq hf hh he] at h
          exact Or.inr ⟨op, rfl, h⟩

/-! ### The host's run: `step` and `exec` -/

theorem step_of_fault {s : State} (h : s.fault = true) : step s = .fault .stuckAfterModelFault := stepBy_of_fault rfl h

theorem step_of_halted {s : State} (h : s.fault = false) (h' : s.haltedFetch = true) :
    step s = .fault .stuckAfterFetchFailed := stepBy_of_halted rfl h h'

theorem step_of_fetch {s : State} {op : Word} (h : s.fault = false) (h' : s.haltedFetch = false)
    (hf : s.fetch = some op) : step s = exec (decode op) (s.beginCycle op) := stepBy_of_fetch rfl h h' hf

theorem step_of_fetch_none {s : State} (h : s.fault = false) (h' : s.haltedFetch = false) (hf : s.fetch = none) :
    step s = .next s.fetchFailed := stepBy_of_fetch_none rfl h h' hf

/-- A step that answers a next state is a failed fetch or an instruction, of an enabled engine. -/
theorem step_cases {s t : State} (h : step s = .next t) :
    s.fault = false ∧ s.haltedFetch = false ∧
      ((s.fetch = none ∧ t = s.fetchFailed) ∨ ∃ op, s.fetch = some op ∧ exec (decode op) (s.beginCycle op) = .next t) :=
  (stepBy_cases h).2

/-- Under the configuration of the host's run an instruction does what `exec` says. -/
@[simp] theorem execWith_run : execWith Config.quirks = exec := by
  funext i s
  cases i <;> rfl

/-- No instruction refuses. -/
theorem exec_ne_refused (i : Instr) (s : State) (r : Refusal) : exec i s ≠ .refused r := by
  cases i <;> simp only [exec, execCls, execRet, execSys, execJp, execCall, execSeImm, execSneImm, execSeReg, execLdImm,
    execAddImm, execLdReg, execOrReg, execAndReg, execXorReg, execAddReg, execSub, execShr, execSubn, execShl,
    execInvalid8, execSneReg, execLdI, execJpV0, execRnd, execDrw, execSkp, execSknp, execInvalidE, execLdFromDt,
    execLdK, execLdDt, execLdSt, execAddI, execLdF, execLdB, execStRegs, execLdRegs, execInvalidF, jumpOffset, shiftRight, shiftLeft,
    storeRegisters, loadRegisters, ne_eq, reduceCtorEq,
    not_false_eq_true] <;> split <;> simp

/-- The only fault an instruction raises is the model fault (60 R307). -/
theorem exec_fault {i : Instr} {s : State} {r : Fault} (h : exec i s = .fault r) : r = .memoryOutOfRange := by
  cases i <;> simp only [exec, execCls, execRet, execSys, execJp, execCall, execSeImm, execSneImm, execSeReg, execLdImm,
    execAddImm, execLdReg, execOrReg, execAndReg, execXorReg, execAddReg, execSub, execShr, execSubn, execShl,
    execInvalid8, execSneReg, execLdI, execJpV0, execRnd, execDrw, execSkp, execSknp, execInvalidE, execLdFromDt,
    execLdK, execLdDt, execLdSt, execAddI, execLdF, execLdB, execStRegs, execLdRegs, execInvalidF, jumpOffset, shiftRight, shiftLeft,
    storeRegisters, loadRegisters, reduceCtorEq] at h <;>
    split at h <;> simp_all

end Sys2Proof.Machine
end

