-- ==== Sys2Proof/Tests/Slice0.lean ====
section
/-! SUPPORT. The tests: ill-formed terms, a word written out for every constructor, the vectors of 95_test_vectors.md on one
step each, and states that meet the hypotheses of the statements (`witness_<statement>`). -/

namespace Sys2Proof.Tests

open Sys2Proof Sys2Proof.Machine

/-! ## Helpers -/

/-- The base state of 95 section 0: the state after reset with an opcode at 0x200. -/
def base (op : Word) : State := State.reset.placeWord (wordBytes op)

/-- The base state with one byte of memory. -/
def poke (s : State) (a : Nat) (b : Byte) : State := s.setMem (s.mem.write a b)

/-- The state with its pc moved and an opcode placed there. -/
def at_ (pc op : Word) : State := (State.reset.setPc pc).placeWord (wordBytes op)

/-- What a next state shows; nothing of a fault or a refusal. -/
def seen {α : Type} (f : State → α) : StepOutcome → Option α
  | .next t => some (f t)
  | .fault _ => none
  | .refused _ => none

/-- Whether the outcome is the model fault. -/
def isModelFault : StepOutcome → Bool
  | .fault .memoryOutOfRange => true
  | _ => false

/-- A register of the next state. -/
def reg (r : Reg) (o : StepOutcome) : Option Byte := seen (fun t => t.getV r) o

/-- The pc and the status of the next state. -/
def pcStatus (o : StepOutcome) : Option (Word × Status) := seen (fun t => (t.pc, t.result.status)) o

/-- The state with n copies of an entry on the stack. -/
def stacked (s : State) (n : Nat) (w : Word) : State := { s with stack := List.replicate n w }

/-- The configuration `modern` of 95 section 0. -/
def modern : Quirks := { shiftFromY := false, jumpV0 := false, loadStoreInc := false, subLegacy := false }

/-- The three legacy settings of 95 section 0 at once; each instruction reads one of them. -/
def legacy : Quirks := { shiftFromY := true, jumpV0 := true, loadStoreInc := true, subLegacy := false }

/-- The base state with I = 0x300 and the bytes 1, 5, 6 there (95 IX18). -/
def transfer (op : Word) : State := poke (poke (poke ((base op).setI 0x300#16) 0x300 1#8) 0x301 5#8) 0x302 6#8

/-! ## WellFormed -/

theorem test_wf_sys_is_not_cls : (Instr.sys 0x0E0#12).wf = false := by decide
theorem test_wf_sys_is_not_ret : (Instr.sys 0x0EE#12).wf = false := by decide
theorem test_wf_invalid8 : (Instr.invalid8 0x1#4 0x2#4 0x0#4).wf = false := by decide
theorem test_wf_invalidE : (Instr.invalidE 0x1#4 0x9E#8).wf = false := by decide
theorem test_wf_invalidF : (Instr.invalidF 0x1#4 0x07#8).wf = false := by decide
theorem test_wf_accepts :
    (Instr.sys 0x0E1#12).wf = true ∧ (Instr.invalid8 0x1#4 0x2#4 0xF#4).wf = true ∧
      (Instr.invalidE 0x1#4 0x9F#8).wf = true ∧ (Instr.invalidF 0x1#4 0x08#8).wf = true := by decide

/-! ## Decoding: a word written out from 30_encoding.md for every constructor -/

theorem test_decode_cls : decode 0b0000000011100000#16 = .cls := by decide
theorem test_decode_ret : decode 0b0000000011101110#16 = .ret := by decide
theorem test_decode_sys : decode 0b0000000011100001#16 = .sys 0x0E1#12 := by decide
theorem test_decode_jp : decode 0b0001001000110100#16 = .jp 0x234#12 := by decide
theorem test_decode_call : decode 0b0010001000000100#16 = .call 0x204#12 := by decide
theorem test_decode_seImm : decode 0b0011001101000010#16 = .seImm 0x3#4 0x42#8 := by decide
theorem test_decode_sneImm : decode 0b0100001101000010#16 = .sneImm 0x3#4 0x42#8 := by decide
theorem test_decode_seReg : decode 0b0101000100100111#16 = .seReg 0x1#4 0x2#4 0x7#4 := by decide
theorem test_decode_ldImm : decode 0b0110101001011100#16 = .ldImm 0xA#4 0x5C#8 := by decide
theorem test_decode_addImm : decode 0b0111000100100000#16 = .addImm 0x1#4 0x20#8 := by decide
theorem test_decode_ldReg : decode 0b1000000100100000#16 = .ldReg 0x1#4 0x2#4 := by decide
theorem test_decode_orReg : decode 0b1000000100100001#16 = .orReg 0x1#4 0x2#4 := by decide
theorem test_decode_andReg : decode 0b1000000100100010#16 = .andReg 0x1#4 0x2#4 := by decide
theorem test_decode_xorReg : decode 0b1000000100100011#16 = .xorReg 0x1#4 0x2#4 := by decide
theorem test_decode_addReg : decode 0b1000111100010100#16 = .addReg 0xF#4 0x1#4 := by decide
theorem test_decode_sub : decode 0b1000000100100101#16 = .sub 0x1#4 0x2#4 := by decide
theorem test_decode_shr : decode 0b1000000000010110#16 = .shr 0x0#4 0x1#4 := by decide
theorem test_decode_subn : decode 0b1000000100100111#16 = .subn 0x1#4 0x2#4 := by decide
theorem test_decode_shl : decode 0b1000000100101110#16 = .shl 0x1#4 0x2#4 := by decide
theorem test_decode_invalid8 : decode 0b1000000100101101#16 = .invalid8 0x1#4 0x2#4 0xD#4 := by decide
theorem test_decode_sneReg : decode 0b1001000100101111#16 = .sneReg 0x1#4 0x2#4 0xF#4 := by decide
theorem test_decode_ldI : decode 0b1010101010111011#16 = .ldI 0xABB#12 := by decide
theorem test_decode_jpV0 : decode 0b1011001000010000#16 = .jpV0 0x210#12 := by decide
theorem test_decode_rnd : decode 0b1100001100001111#16 = .rnd 0x3#4 0x0F#8 := by decide
theorem test_decode_drw : decode 0b1101000000010101#16 = .drw 0x0#4 0x1#4 0x5#4 := by decide
theorem test_decode_skp : decode 0b1110000110011110#16 = .skp 0x1#4 := by decide
theorem test_decode_sknp : decode 0b1110000110100001#16 = .sknp 0x1#4 := by decide
theorem test_decode_invalidE : decode 0b1110000100000000#16 = .invalidE 0x1#4 0x00#8 := by decide
theorem test_decode_ldFromDt : decode 0b1111010100000111#16 = .ldFromDt 0x5#4 := by decide
theorem test_decode_ldK : decode 0b1111001100001010#16 = .ldK 0x3#4 := by decide
theorem test_decode_ldDt : decode 0b1111010100010101#16 = .ldDt 0x5#4 := by decide
theorem test_decode_ldSt : decode 0b1111001000011000#16 = .ldSt 0x2#4 := by decide
theorem test_decode_addI : decode 0b1111000000011110#16 = .addI 0x0#4 := by decide
theorem test_decode_ldF : decode 0b1111010000101001#16 = .ldF 0x4#4 := by decide
theorem test_decode_ldB : decode 0b1111000000110011#16 = .ldB 0x0#4 := by decide
theorem test_decode_stRegs : decode 0b1111000101010101#16 = .stRegs 0x1#4 := by decide
theorem test_decode_ldRegs : decode 0b1111001001100101#16 = .ldRegs 0x2#4 := by decide
theorem test_decode_invalidF : decode 0b1111000011111111#16 = .invalidF 0x0#4 0xFF#8 := by decide

/-- A table word is the opcode; its bytes in memory are the high byte, then the low byte; a short list of bytes is refused. -/
theorem test_decodeTableWord :
    decodeTableWord 16 0x1234 = some (.jp 0x234#12) ∧ tableBytes 16 0x1234 = [0x12#8, 0x34#8] := by decide

/-! ## The step cycle (95 section 2.1) -/

theorem test_sc1_big_endian :
    seen (fun t => (t.pc, t.result.opcode)) (step (poke (poke State.reset 0x200 0x12#8) 0x201 0x34#8)) =
      some (0x234#16, 0x1234#16) := by decide
theorem test_sc2_last_fetch :
    pcStatus (step (State.reset.setPc 0xFFE#16)) = some (0x1000#16, .instructionNotImplemented) := by decide
theorem test_sc3_fetch_failed :
    seen (fun t => (t.pc, t.haltedFetch, t.result.status)) (step (State.reset.setPc 0xFFF#16)) =
      some (0x1001#16, true, .fetchFailed) := by decide
theorem test_sc8_odd_pc :
    seen (fun t => (t.pc, t.getV 0x1#4)) (step (at_ 0x301#16 0x6107#16)) = some (0x303#16, 0x07#8) := by decide
theorem test_sc13_flag_last : reg 0xF#4 (step (((base 0x8F14#16).setV 0xF#4 0x05#8).setV 0x1#4 0xFF#8)) = some 1#8 := by
  decide
theorem test_sc14_old_vf :
    seen (fun t => (t.getV 0x1#4, t.getV 0xF#4)) (step (((base 0x81F4#16).setV 0x1#4 0x10#8).setV 0xF#4 0x01#8)) =
      some (0x11#8, 0#8) := by decide
/-- The first step after reset fetches the zero bytes at 0x200 (95 LD1). -/
theorem test_reset_step : pcStatus (step State.reset) = some (0x202#16, .instructionNotImplemented) := by decide
/-- A table word placed by the host runs in the next step. -/
theorem test_withFetchWord : seen (fun t => t.pc) (step (State.reset.withFetchWord 16 0x1234)) = some 0x234#16 := by decide

/-! ## Control flow (95 section 2.2) -/

theorem test_sys : pcStatus (step (base 0x0123#16)) = some (0x202#16, .instructionNotImplemented) := by decide
theorem test_jp : pcStatus (step (base 0x1FFF#16)) = some (0xFFF#16, .success) := by decide
theorem test_call :
    seen (fun t => (t.pc, t.stack)) (step (base 0x2204#16)) = some (0x204#16, [0x202#16]) := by decide
theorem test_call_full :
    seen (fun t => (t.pc, t.result.status, t.stack.length)) (step (stacked (base 0x2204#16) 16 0x31E#16)) =
      some (0x202#16, .stackFull, 16) := by decide
theorem test_ret :
    seen (fun t => (t.pc, t.stack)) (step (stacked (at_ 0x204#16 0x00EE#16) 1 0x202#16)) = some (0x202#16, []) := by decide
theorem test_ret_empty : pcStatus (step (base 0x00EE#16)) = some (0x202#16, .stackEmpty) := by decide
theorem test_seImm_equal : seen (fun t => t.pc) (step ((base 0x3342#16).setV 0x3#4 0x42#8)) = some 0x204#16 := by decide
theorem test_seImm_other : seen (fun t => t.pc) (step ((base 0x3342#16).setV 0x3#4 0x41#8)) = some 0x202#16 := by decide
theorem test_sneImm_other : seen (fun t => t.pc) (step ((base 0x4342#16).setV 0x3#4 0x41#8)) = some 0x204#16 := by decide
theorem test_sneImm_equal : seen (fun t => t.pc) (step ((base 0x4342#16).setV 0x3#4 0x42#8)) = some 0x202#16 := by decide
theorem test_seReg_equal :
    seen (fun t => t.pc) (step (((base 0x5127#16).setV 0x1#4 7#8).setV 0x2#4 7#8)) = some 0x204#16 := by decide
theorem test_seReg_other :
    seen (fun t => t.pc) (step (((base 0x5120#16).setV 0x1#4 7#8).setV 0x2#4 8#8)) = some 0x202#16 := by decide
theorem test_sneReg_other :
    seen (fun t => t.pc) (step (((base 0x9120#16).setV 0x1#4 7#8).setV 0x2#4 8#8)) = some 0x204#16 := by decide
theorem test_sneReg_equal :
    seen (fun t => t.pc) (step (((base 0x912F#16).setV 0x1#4 7#8).setV 0x2#4 7#8)) = some 0x202#16 := by decide
/-- 95 CF20 and CF21: modern, then legacy. -/
theorem test_jpV0 :
    seen (fun t => t.pc) (stepWith modern (((base 0xB210#16).setV 0x0#4 0x10#8).setV 0x2#4 0x05#8)) = some 0x215#16 ∧
    seen (fun t => t.pc) (stepWith legacy (((base 0xB210#16).setV 0x0#4 0x10#8).setV 0x2#4 0x05#8)) = some 0x220#16 := by decide
/-- 95 CF22. -/
theorem test_jpV0_no_wrap :
    seen (fun t => t.pc) (stepWith legacy ((base 0xBFFF#16).setV 0x0#4 0xFF#8)) = some 0x10FE#16 := by decide

/-! ## Arithmetic (95 section 2.3) -/

theorem test_ldImm : reg 0xA#4 (step (base 0x6A5C#16)) = some 0x5C#8 := by decide
theorem test_addImm :
    seen (fun t => (t.getV 0x1#4, t.getV 0xF#4)) (step (((base 0x7120#16).setV 0x1#4 0xF0#8).setV 0xF#4 0x55#8)) =
      some (0x10#8, 0x55#8) := by decide
theorem test_addImm_vf : reg 0xF#4 (step ((base 0x7F01#16).setV 0xF#4 0xFF#8)) = some 0x00#8 := by decide
theorem test_ldReg : reg 0x1#4 (step ((base 0x8120#16).setV 0x2#4 0x33#8)) = some 0x33#8 := by decide
theorem test_or :
    seen (fun t => (t.getV 0x1#4, t.getV 0xF#4))
      (step ((((base 0x8121#16).setV 0x1#4 0x0F#8).setV 0x2#4 0xF0#8).setV 0xF#4 0x55#8)) = some (0xFF#8, 0x55#8) := by decide
theorem test_and : reg 0x1#4 (step (((base 0x8122#16).setV 0x1#4 0x3C#8).setV 0x2#4 0x0F#8)) = some 0x0C#8 := by decide
theorem test_xor : reg 0x1#4 (step (((base 0x8123#16).setV 0x1#4 0x3C#8).setV 0x2#4 0x0F#8)) = some 0x33#8 := by decide
theorem test_add_carry :
    seen (fun t => (t.getV 0x0#4, t.getV 0xF#4)) (step (((base 0x8014#16).setV 0x0#4 0xFF#8).setV 0x1#4 0x01#8)) =
      some (0x00#8, 1#8) := by decide
theorem test_add_no_carry :
    seen (fun t => (t.getV 0x0#4, t.getV 0xF#4)) (step (((base 0x8014#16).setV 0x0#4 0x7F#8).setV 0x1#4 0x01#8)) =
      some (0x80#8, 0#8) := by decide
theorem test_sub_borrow :
    seen (fun t => (t.getV 0x1#4, t.getV 0xF#4)) (step (((base 0x8125#16).setV 0x1#4 0x03#8).setV 0x2#4 0x05#8)) =
      some (0xFE#8, 0#8) := by decide
theorem test_sub_equal :
    seen (fun t => (t.getV 0x1#4, t.getV 0xF#4)) (step (((base 0x8125#16).setV 0x1#4 0x05#8).setV 0x2#4 0x05#8)) =
      some (0x00#8, 1#8) := by decide
theorem test_subn :
    seen (fun t => (t.getV 0x1#4, t.getV 0xF#4)) (step (((base 0x8127#16).setV 0x1#4 0x03#8).setV 0x2#4 0x05#8)) =
      some (0x02#8, 1#8) := by decide
theorem test_subn_borrow :
    seen (fun t => (t.getV 0x1#4, t.getV 0xF#4)) (step (((base 0x8127#16).setV 0x1#4 0x05#8).setV 0x2#4 0x03#8)) =
      some (0xFE#8, 0#8) := by decide

/-- 95 AL20 and AL21: the source is V0 in modern mode and V1 in legacy mode, and V1 is not written. -/
theorem test_shr :
    seen (fun t => (t.getV 0x0#4, t.getV 0x1#4, t.getV 0xF#4))
      (stepWith modern (((base 0x8016#16).setV 0x0#4 0x08#8).setV 0x1#4 0x03#8)) = some (0x04#8, 0x03#8, 0#8) ∧
    seen (fun t => (t.getV 0x0#4, t.getV 0x1#4, t.getV 0xF#4))
      (stepWith legacy (((base 0x8016#16).setV 0x0#4 0x08#8).setV 0x1#4 0x03#8)) = some (0x01#8, 0x03#8, 1#8) := by decide
/-- 95 AL23: the flag 1 replaces the result 0x01. -/
theorem test_shr_vf : reg 0xF#4 (stepWith modern ((base 0x8F06#16).setV 0xF#4 0x03#8)) = some 1#8 := by decide
/-- 95 AL24 and AL25. -/
theorem test_shl :
    seen (fun t => (t.getV 0x1#4, t.getV 0xF#4)) (stepWith modern ((base 0x811E#16).setV 0x1#4 0x81#8)) =
      some (0x02#8, 1#8) ∧
    seen (fun t => (t.getV 0x1#4, t.getV 0x2#4, t.getV 0xF#4))
      (stepWith legacy (((base 0x812E#16).setV 0x1#4 0x01#8).setV 0x2#4 0x80#8)) = some (0x00#8, 0x80#8, 1#8) := by decide
/-- 95 AL30: with the mask 0 the draw does not matter. -/
theorem test_rnd : reg 0x3#4 (exec (.rnd 0x3#4 0x00#8) State.reset) = some 0#8 := by
  show some ((State.reset.nextFree.setV 0x3#4 (State.reset.drawnByte &&& 0#8)).getV 0x3#4) = some 0#8
  rw [BitVec.and_zero]
  decide
theorem test_invalid8 : pcStatus (step (base 0x8128#16)) = some (0x202#16, .instructionInvalid) := by decide

/-! ## The index register and the transfers (95 section 2.4) -/

theorem test_ldI : seen (fun t => t.i) (step (base 0xAABB#16)) = some 0x0ABB#16 := by decide
theorem test_addI :
    seen (fun t => (t.i, t.getV 0xF#4)) (step ((((base 0xF01E#16).setI 0x0FFF#16).setV 0x0#4 1#8).setV 0xF#4 0x77#8)) =
      some (0x1000#16, 0x77#8) := by decide
theorem test_addI_wraps : seen (fun t => t.i) (step (((base 0xF01E#16).setI 0xFFFF#16).setV 0x0#4 1#8)) = some 0#16 := by
  decide
/-- 95 IX4 and IX5. -/
theorem test_ldF : glyphAddress 0x050 0x0C#8 = 0x08C#16 ∧ glyphAddress 0x050 0x1A#8 = 0x082#16 := by decide
theorem test_ldB :
    seen (fun t => (t.mem.read 0x300, t.mem.read 0x301, t.mem.read 0x302))
      (step (((base 0xF033#16).setI 0x300#16).setV 0x0#4 156#8)) = some (1#8, 5#8, 6#8) := by decide
theorem test_ldB_fault : isModelFault (step (((base 0xF033#16).setI 0xFFE#16).setV 0x0#4 42#8)) = true := by decide
/-- 95 IX13 and IX14: the bytes, and the index in modern and legacy mode. -/
theorem test_stRegs :
    seen (fun t => (t.mem.read 0x300, t.mem.read 0x301, t.i))
      (stepWith modern ((((base 0xF155#16).setI 0x300#16).setV 0x0#4 1#8).setV 0x1#4 2#8)) = some (1#8, 2#8, 0x300#16) ∧
    seen (fun t => t.i) (stepWith legacy ((((base 0xF155#16).setI 0x300#16).setV 0x0#4 1#8).setV 0x1#4 2#8)) =
      some 0x302#16 := by decide
theorem test_stRegs_fault : isModelFault (step ((base 0xFF55#16).setI 0xFF1#16)) = true := by decide
/-- 95 IX18 and IX19: V0..V2 are loaded, V3 is not. -/
theorem test_ldRegs :
    seen (fun t => (t.getV 0x0#4, t.getV 0x1#4, t.getV 0x2#4, t.getV 0x3#4, t.i))
      (stepWith modern ((transfer 0xF265#16).setV 0x3#4 9#8)) = some (1#8, 5#8, 6#8, 9#8, 0x300#16) ∧
    seen (fun t => t.i) (stepWith legacy (transfer 0xF265#16)) = some 0x303#16 := by decide
theorem test_ldRegs_fault : isModelFault (step ((base 0xF165#16).setI 0xFFF#16)) = true := by decide

/-! ## The display (95 section 2.5) -/

/-- The base state with I = 0x300 and one sprite byte there. -/
def oneRow (op : Word) (b : Byte) : State := poke ((base op).setI 0x300#16) 0x300 b

/-- A state with one pixel on. -/
def lit (s : State) (c r : Nat) : State := s.setDisp (Display.setPixel s.disp c r true)

theorem test_cls :
    seen (fun t => (Display.pixel t.disp 63 31, t.result.displayMutated)) (step (lit (base 0x00E0#16) 63 31)) =
      some (false, true) := by decide
/-- 95 DS5: two pixels on, none wraps. -/
theorem test_drw_clips :
    seen (fun t => (Display.pixel t.disp 62 0, Display.pixel t.disp 63 0, Display.pixel t.disp 0 0, t.getV 0xF#4))
      (step ((oneRow 0xD011#16 0xFF#8).setV 0x0#4 62#8)) = some (true, true, false, 0#8) := by decide
/-- 95 DS18 with its collision. -/
theorem test_drw_collides :
    seen (fun t => (Display.pixel t.disp 0 0, Display.pixel t.disp 1 0, Display.pixel t.disp 2 0, t.getV 0xF#4))
      (step (lit (lit (oneRow 0xD011#16 0xA0#8) 0 0) 1 0)) = some (false, true, true, 1#8) := by decide

/-! ## Timers and keypad (95 section 2.6) -/

theorem test_ldFromDt : reg 0x5#4 (step ((base 0xF507#16).setDT 0x3C#8)) = some 0x3C#8 := by decide
theorem test_ldDt :
    seen (fun t => (t.dt, t.result.soundWritten)) (step ((base 0xF515#16).setV 0x5#4 0x3C#8)) = some (0x3C#8, false) := by decide
theorem test_ldSt :
    seen (fun t => (t.st, t.result.soundWritten)) (step ((base 0xF018#16).setST 7#8)) = some (0#8, true) := by decide
theorem test_skp : pcStatus (step (base 0xE19E#16)) = some (0x202#16, .instructionNotImplemented) := by decide
theorem test_sknp : pcStatus (step (base 0xE1A1#16)) = some (0x202#16, .instructionNotImplemented) := by decide
theorem test_ldK :
    seen (fun t => (t.pc, t.getV 0x3#4, t.result.status)) (step ((base 0xF30A#16).setV 0x3#4 9#8)) =
      some (0x202#16, 9#8, .instructionNotImplemented) := by decide
theorem test_tick :
    (((State.reset.setDT 0x10#8).setST 1#8).tick.dt, ((State.reset.setDT 0x10#8).setST 1#8).tick.st,
      (State.reset.setST 1#8).tick.dt) = (0x0F#8, 0#8, 0#8) := by decide

/-! ## Failures and loads (95 sections 2.7 and 2.8) -/

theorem test_invalidE : pcStatus (step (base 0xE100#16)) = some (0x202#16, .instructionInvalid) := by decide
theorem test_invalidF : pcStatus (step (base 0xF000#16)) = some (0x202#16, .instructionInvalid) := by decide
/-- 95 EX7: a load does not clear `fault`, and no step follows. -/
theorem test_fault_is_sticky :
    let s := ({ State.reset with fault := true }.loadProgram [0x12#8, 0x00#8] false).1
    s.fault = true ∧ (transact Config.quirks .step s).2 = .noStep := by decide
/-- 95 SC7: a load clears `halted_fetch`. -/
theorem test_load_clears_halted :
    (({ State.reset with haltedFetch := true }).loadProgram [0x12#8, 0x00#8] false).1.haltedFetch = false := by decide
theorem test_load_program :
    let s := ({ State.reset with pc := 0x2A4#16, i := 0x123#16, stack := [0x206#16] }.loadProgram [0x12#8, 0x34#8] false).1
    s.pc = 0x200#16 ∧ s.i = 0#16 ∧ s.stack = [] ∧ s.mem.read 0x200 = 0x12#8 ∧ s.mem.read 0x201 = 0x34#8 := by decide

/-! ## Witnesses: states and operands that meet the hypotheses of each statement, clause by clause -/

theorem witness_DecodeOfEncodeIsTheInstruction :
    (Instr.sys 0xFFF#12).wf = true ∧ (Instr.invalidF 0xF#4 0x66#8).wf = true ∧ (Instr.jp 0x0E0#12).wf = true := by decide

/-- The rows that take 0x8128: the invalid row alone; those that take 00E0: CLS and SYS. -/
theorem witness_DecodePicksTheTableRow :
    (Instr.invalid8 0#4 0#4 0x8#4).row.takes 0x8128#16 = true ∧ Instr.cls.row.takes 0x00E0#16 = true ∧
      (Instr.sys 0#12).row.takes 0x00E0#16 = true := by decide

theorem witness_FetchReadsTwoBytesBigEndian :
    (State.reset.setPc 4094#16).pc.toNat ≤ 4094 ∧ 4095 ≤ (State.reset.setPc 4095#16).pc.toNat := by decide

theorem witness_StepRunsTheDecodedInstruction :
    (at_ 4094#16 0x6A5C#16).Enabled ∧ (at_ 4094#16 0x6A5C#16).fetch = some 0x6A5C#16 ∧
    modern.subLegacy = false := by decide

theorem witness_FetchFailureHaltsTheEngine :
    (State.reset.setPc 4095#16).Enabled ∧ 4095 ≤ (State.reset.setPc 4095#16).pc.toNat := by decide

theorem witness_NoStepWhileHaltedOrFaulted :
    State.reset.modelFaulted.fault = true ∧ State.reset.fetchFailed.fault = false ∧
      State.reset.fetchFailed.haltedFetch = true ∧ legacy.subLegacy = false := by decide

theorem witness_InstructionEndsInOneOfThreeWays : State.reset.result.status = .success := by decide

/-- A step of each status: success, invalid, not implemented, stack full, stack empty. -/
theorem witness_StatusOfAStep :
    ((base 0x6A5C#16).Enabled ∧ (base 0x6A5C#16).stack.length ≤ 16 ∧ (base 0x6A5C#16).fetch = some 0x6A5C#16) ∧
    seen (fun t => t.result.status) (step (base 0x6A5C#16)) = some .success ∧
    seen (fun t => t.result.status) (step (base 0xF0FF#16)) = some .instructionInvalid ∧
    seen (fun t => t.result.status) (step (base 0xF00A#16)) = some .instructionNotImplemented ∧
    (stacked (base 0x2204#16) 16 0#16).stack.length = 16 ∧
    seen (fun t => t.result.status) (step (stacked (base 0x2204#16) 16 0#16)) = some .stackFull ∧
    seen (fun t => t.result.status) (step (stacked (base 0x2204#16) 15 0#16)) = some .success ∧
    seen (fun t => t.result.status) (step (base 0x00EE#16)) = some .stackEmpty := by decide

/-- A step that sets each flag and one that sets none. -/
theorem witness_ResultRecordOfAStep :
    (base 0x00E0#16).Enabled ∧ (base 0x00E0#16).fetch = some 0x00E0#16 ∧
    seen (fun t => (t.result.displayMutated, t.result.soundWritten)) (step (base 0x00E0#16)) = some (true, false) ∧
    seen (fun t => (t.result.displayMutated, t.result.soundWritten)) (step (base 0xF018#16)) = some (false, true) ∧
    seen (fun t => (t.result.displayMutated, t.result.soundWritten)) (step (base 0xF015#16)) = some (false, false) := by
  decide

theorem witness_EveryStepAdvancesThePc :
    (base 0x6A5C#16).Enabled ∧ (base 0x6A5C#16).fetch = some 0x6A5C#16 ∧ (decode 0x6A5C#16).mayWritePc = false ∧
    pcStatus (step (base 0x6A5C#16)) = some (0x202#16, .success) ∧
    pcStatus (step (base 0x00EE#16)) = some (0x202#16, .stackEmpty) := by decide

theorem witness_EngineStaysEnabledAfterAStep :
    (at_ 4094#16 0x00EE#16).Enabled ∧ (at_ 4094#16 0x00EE#16).pc.toNat ≤ 4094 ∧
    pcStatus (step (at_ 4094#16 0x00EE#16)) = some (0x1000#16, .stackEmpty) := by decide

theorem witness_ModelFaultWritesNothing :
    ((base 0xF033#16).setI 4094#16).Enabled ∧
    stepWith legacy ((base 0xF033#16).setI 4094#16) = .fault .memoryOutOfRange := by
  refine ⟨by decide, ?_⟩
  rfl

theorem witness_ReservedRowsReportNotImplemented : (0x0E1#12 : Addr) ≠ 0x0E0#12 ∧ (0x0E1#12 : Addr) ≠ 0x0EE#12 := by decide

/-- The invalid words at the edges of their ranges, and the defined words beside them. -/
theorem witness_InvalidRowsReportInvalid :
    invalidWord 0x8008#16 = true ∧ invalidWord 0x800D#16 = true ∧ invalidWord 0x800F#16 = true ∧
    invalidWord 0x8007#16 = false ∧ invalidWord 0x800E#16 = false ∧ invalidWord 0xE09F#16 = true ∧
    invalidWord 0xE09E#16 = false ∧ invalidWord 0xF066#16 = true ∧ invalidWord 0xF065#16 = false := by decide

theorem witness_HaltLoopStaysPut : (base 0x1200#16).Enabled ∧ (base 0x1200#16).atHaltLoop = true := by decide

theorem witness_CallPushesAndJumps :
    (stacked State.reset 15 0x206#16).stack.length < 16 ∧ (stacked State.reset 16 0x206#16).stack.length = 16 := by decide

theorem witness_RetPopsIntoThePc :
    (stacked State.reset 2 0x206#16).stack = [0x206#16] ++ [0x206#16] ∧ State.reset.stack = [] := by decide

theorem witness_CallThenRetComesBack :
    (stacked State.reset 15 0x206#16).stack.length < 16 ∧
    seen (fun t => t.stack) (exec (.call 0x204#12) (stacked State.reset 15 0x206#16)) =
      some (List.replicate 15 0x206#16 ++ [0x200#16]) := by decide

/-- Both cases of each skip. -/
theorem witness_SkipsOnAnImmediate :
    State.reset.getV 0x3#4 = 0x00#8 ∧ State.reset.getV 0x3#4 ≠ 0x01#8 := by decide

theorem witness_SkipsOnTwoRegisters :
    State.reset.getV 0x3#4 = State.reset.getV 0x4#4 ∧
    (State.reset.setV 0x3#4 1#8).getV 0x3#4 ≠ (State.reset.setV 0x3#4 1#8).getV 0x4#4 := by decide

/-- A destination that is not VF; the largest sum without a carry and the least with one. -/
theorem witness_AddWritesTheCarry :
    (0xE#4 : Reg) ≠ 0xF#4 ∧ ¬(0xFE#8 : Byte).toNat + (0x01#8 : Byte).toNat > 0xFF ∧
    (0xFF#8 : Byte).toNat + (0x01#8 : Byte).toNat > 0xFF := by decide

/-- A destination that is not VF; the equal operands, which borrow nothing, and the least borrow. -/
theorem witness_SubtractsWriteTheNotBorrow :
    (0xE#4 : Reg) ≠ 0xF#4 ∧ (0x05#8 : Byte).toNat ≥ (0x05#8 : Byte).toNat ∧
    ¬(0x04#8 : Byte).toNat ≥ (0x05#8 : Byte).toNat := by decide

theorem witness_ShiftsWriteTheBitOut : (0xE#4 : Reg) ≠ 0xF#4 := by decide

/-- The mask 0. -/
theorem witness_RndMasksTheDrawnByte : reg 0x3#4 (exec (.rnd 0x3#4 0x00#8) State.reset) = some 0#8 := test_rnd

/-- The last column and row of the grid. -/
theorem witness_ClsClearsEveryPixel : 63 < 64 ∧ 31 < 32 ∧ Display.pixel (lit State.reset 63 31).disp 63 31 = true := by decide

/-- The last start of LD B in range and the first out of range. -/
theorem witness_LdBStoresTheDigits :
    State.reset.mem.wf = true ∧ (State.reset.setI 4093#16).i.toNat + 3 ≤ 4096 ∧
    4096 < (State.reset.setI 4094#16).i.toNat + 3 := by decide

/-- The last start of a transfer of 16 registers in range and the first out of range; for LD [I], Vx and LD Vx, [I]. -/
theorem witness_StRegsStoresTheRegisters :
    State.reset.mem.wf = true ∧ (State.reset.setI 0xFF0#16).i.toNat + (0xF#4 : Reg).toNat + 1 ≤ 4096 ∧
    (0xF#4 : Reg) ≤ 0xF#4 ∧ 4096 < (State.reset.setI 0xFF1#16).i.toNat + (0xF#4 : Reg).toNat + 1 := by decide

theorem witness_LdRegsLoadsTheRegisters :
    (State.reset.setI 4095#16).i.toNat + (0x0#4 : Reg).toNat + 1 ≤ 4096 ∧ (0x0#4 : Reg) ≤ 0x0#4 ∧ ¬(0x1#4 : Reg) ≤ 0x0#4 ∧
    4096 < (State.reset.setI 4095#16).i.toNat + (0x1#4 : Reg).toNat + 1 := by decide

/-- LD [I], V1 at 0x300, and a state whose memory is the result's and whose pc is 0x300. -/
theorem witness_StoredWordIsFetched :
    ∃ s t u : State, s.mem.wf = true ∧ (0x0#4 : Reg) < 0x1#4 ∧ exec (.stRegs 0x1#4) s = .next t ∧
      u.mem = t.mem ∧ u.pc.toNat = s.i.toNat + (0x0#4 : Reg).toNat :=
  ⟨State.reset.setI 0x300#16, _, State.setPc _ 0x300#16, by decide, by decide, rfl, rfl, by decide⟩

/-- 95 DS3 and DS4: the sprite of 5 rows in range, on a clear display and on one it meets; and the last start of 15 rows. -/
theorem witness_DrwXorsTheClippedSprite :
    (State.reset.setI 4081#16).i.toNat + (0xF#4 : Nibble).toNat ≤ 4096 ∧
    SpriteHits (lit (oneRow 0xD011#16 0x80#8) 0 0) 0x0#4 0x1#4 0x1#4 ∧
    ¬SpriteHits (oneRow 0xD011#16 0x80#8) 0x0#4 0x1#4 0x1#4 := by
  refine ⟨by decide, ⟨0, 0, by decide, by decide, by decide, by decide⟩, ?_⟩
  rintro ⟨c, r, -, -, h, -⟩
  rw [show (oneRow 0xD011#16 0x80#8).disp = Display.clear from rfl, Display.pixel_clear] at h
  cases h

theorem witness_DrwRangeAndEmptySprite :
    (0x1#4 : Nibble) ≠ 0#4 ∧ 4096 < (State.reset.setI 4096#16).i.toNat + (0x1#4 : Nibble).toNat := by decide

/-- A program of the largest size, an address of it and one below it, and both reasons why no font is re-applied. -/
theorem witness_ProgramLoadResets :
    (List.replicate 3584 (0#8 : Byte)).length ≤ 3584 ∧ 0x200 ≤ 4095 ∧ 0x1FF < 0x200 ∧ State.reset.activeFont = none ∧
    ({ State.reset with activeFont := some 1 } : State).activeFont ≠ none := by
  refine ⟨by rw [List.length_replicate], by decide, by decide, rfl, by decide⟩

theorem witness_OversizedProgramIsRejected : 3584 < (List.replicate 3585 (0#8 : Byte)).length := by
  rw [List.length_replicate]
  decide

/-- One byte and 80 bytes fit in every font region the spec allows. -/
theorem witness_FontLoadWritesTheRegion :
    State.reset.mem.wf = true ∧ 1 ≤ [0#8].length ∧ [0#8].length ≤ Config.fontRegionSize ∧
    1 ≤ (List.replicate 80 (0#8 : Byte)).length ∧ (List.replicate 80 (0#8 : Byte)).length ≤ Config.fontRegionSize := by
  refine ⟨by decide, by decide, ?_, by decide, ?_⟩
  · exact Nat.le_trans (by decide : 1 ≤ 80) (Nat.le_add_right 80 _)
  · rw [List.length_replicate]
    exact Nat.le_add_right 80 _

/-- One byte more than the font region holds. -/
theorem witness_BadFontIsRejected :
    Config.fontRegionSize < (List.replicate (Config.fontRegionSize + 1) (0#8 : Byte)).length := by
  rw [List.length_replicate]
  exact Nat.lt_succ_self _

theorem witness_ResetIsTheEmptyProgramLoad :
    Config.quirks.subLegacy = false ∧ modern.subLegacy = false ∧ legacy.subLegacy = false := ⟨rfl, rfl, rfl⟩

/-- 10 R53: engines constructed with two configurations are two machines. -/
theorem test_engines_differ :
    seen (fun t => t.pc) (stepWith modern ((base 0xB210#16).setV 0x0#4 1#8)) ≠
      seen (fun t => t.pc) (stepWith legacy ((base 0xB210#16).setV 0x0#4 1#8)) := by decide

theorem witness_SubLegacyIsRefused :
    ({ legacy with subLegacy := true } : Quirks).subLegacy = true ∧ legacy.subLegacy = false ∧
    (Instr.sub 0x1#4 0x2#4).readsQuirks = false := by decide

/-- The configuration of the host's run is one, for JP V0, SHR and SHL, LD [I], Vx and LD Vx, [I]. -/
theorem witness_JpV0AddsTheRegister : ∃ q : Quirks, q = Config.quirks ∧ q.subLegacy = false := ⟨_, rfl, rfl⟩

theorem witness_ReadAfterWrite : Memory.wf [] = true ∧ 4095 < 4096 ∧ 4096 ≤ 4096 := by decide

theorem witness_RangeWriteIsAllOrNothing :
    Memory.wf [] = true ∧ 4094 + [1#8, 2#8].length ≤ 4096 ∧ 0 < [1#8, 2#8].length ∧ 4096 < 4095 + [1#8, 2#8].length := by
  decide

/-- 95 W2: three entries on an empty stack, one entry on 15, a full stack and an empty one. -/
theorem witness_PushesPopInReverse :
    State.reset.stack.length + [0x202#16, 0x302#16, 0x402#16].length ≤ 16 ∧
    (stacked State.reset 15 0#16).stack.length + [0x202#16].length ≤ 16 ∧
    (stacked State.reset 16 0#16).stack.length = 16 ∧ State.reset.stack = [] := by decide

theorem witness_StepKeepsInv :
    (stacked (base 0x2204#16) 15 0x206#16).Inv ∧
    seen (fun t => t.stack.length) (step (stacked (base 0x2204#16) 15 0x206#16)) = some 16 :=
  ⟨⟨by decide, by decide, by decide, fun h => absurd rfl h⟩, by decide⟩

theorem witness_TransactionsKeepInv : State.reset.fetchFailed.Inv :=
  ⟨by decide, by decide, by decide, fun _ => ⟨rfl, rfl⟩⟩

/-- The highest pc of a run that has not failed a fetch, and the highest of one that has. -/
theorem witness_TransactionsKeepPcBound :
    (State.reset.setPc 0x10FE#16).PcBound ∧ (State.reset.setPc 0x10FE#16).fetchFailed.PcBound := by
  refine ⟨⟨by decide, fun _ => by decide, ?_⟩, ⟨by decide, ?_, ?_⟩⟩
  · intro _ h
    cases h
  · intro h
    cases h
  · intro _ h
    cases h

theorem witness_OnlyNamedInstructionsWrite :
    seen (fun t => t.getV 0x1#4) (exec (.ldImm 0x1#4 7#8) State.reset) = some 7#8 ∧
    (Instr.ldImm 0x1#4 7#8).isDestination 0x2#4 = false ∧ (Instr.ldImm 0x1#4 7#8).mayWriteI = false ∧
    (Instr.ldImm 0x1#4 7#8).mayWritePc = false ∧ (Instr.ldImm 0x1#4 7#8).isLdDt = false ∧
    (Instr.ldImm 0x1#4 7#8).isLdSt = false ∧ (Instr.ldImm 0x1#4 7#8).mayWriteStack = false ∧
    (Instr.ldImm 0x1#4 7#8).mayWriteDisp = false ∧ (Instr.ldImm 0x1#4 7#8).mayWriteMem = false := by decide

theorem witness_FlagInstructionsWriteVF :
    (Instr.addReg 0xF#4 0x1#4).isFlagWriter = true ∧
    reg 0xF#4 (exec (.addReg 0xF#4 0x1#4) (State.reset.setV 0x1#4 5#8)) = some 0#8 ∧
    (Instr.orReg 0xE#4 0xF#4).isFlagWriter = false ∧ (Instr.orReg 0xE#4 0xF#4).isDestination 0xF#4 = false ∧
    reg 0xF#4 (exec (.orReg 0xE#4 0xF#4) State.reset) = some 0#8 := by decide

theorem witness_OnlyDrwReadsTheDisplay : ∀ (x y : Reg) (n : Nibble), Instr.ldB 0x0#4 ≠ .drw x y n := by
  intro x y n h
  cases h

end Sys2Proof.Tests
end

/-! PROOFS. The return stack (10 R45, R46): pushes that fit, and pops one after the other. -/

namespace Sys2Proof.Machine

/-- A pop undoes the push before it. -/
theorem State.pop_push {s t : State} {w : Word} (h : s.push w = some t) : t.pop = some (w, s) := by
  obtain ⟨-, rfl⟩ := State.push_eq_some.1 h
  exact State.pop_eq_some.2 ⟨s.stack, rfl, rfl⟩

/-- One pop more, after the first n, gives its entry last. -/
theorem popCount_succ_last {n : Nat} {t u v : State} {ws : List Word} {w : Word}
    (hn : popCount n t = some (ws, u)) (hw : u.pop = some (w, v)) : popCount (n + 1) t = some (ws ++ [w], v) := by
  induction n generalizing t ws with
  | zero =>
    obtain ⟨rfl, rfl⟩ : [] = ws ∧ t = u := by simpa [popCount] using hn
    simp [popCount, hw]
  | succ n ih =>
    obtain ⟨⟨a, t'⟩, ha, hn⟩ := Option.bind_eq_some_iff.1 hn
    obtain ⟨⟨as, u'⟩, has, he⟩ := Option.map_eq_some_iff.1 hn
    obtain ⟨rfl, rfl⟩ := Prod.mk.inj he
    have hrest : popCount (n + 1) t' = some (as ++ [w], v) := ih has
    rw [popCount, ha, Option.bind_some, hrest]
    rfl

/-- Pushes that fit append their entries, and as many pops return them in reverse order. -/
theorem popCount_pushAll (ws : List Word) (s : State) (hfit : s.stack.length + ws.length ≤ stackDepth) :
    ∃ t, pushAll ws s = some t ∧ t.stack = s.stack ++ ws ∧ popCount ws.length t = some (ws.reverse, s) := by
  induction ws generalizing s with
  | nil => exact ⟨s, rfl, by simp, rfl⟩
  | cons w ws ih =>
    rw [List.length_cons] at hfit
    have hpush : s.push w = some { s with stack := s.stack ++ [w] } := State.push_eq_some.2 ⟨by omega, rfl⟩
    obtain ⟨t, hall, hstack, hpop⟩ := ih { s with stack := s.stack ++ [w] }
      (by simpa [Nat.add_assoc, Nat.add_comm 1] using hfit)
    refine ⟨t, by rw [pushAll, hpush, Option.bind_some, hall], by simp [hstack], ?_⟩
    rw [List.length_cons, List.reverse_cons]
    exact popCount_succ_last hpop (State.pop_push hpush)

/-- Settles O51: by induction on the entries, the first push undone by the last pop. -/
theorem pushesPopInReverse : Obligations.PushesPopInReverse :=
  ⟨fun _ _ h => State.push_eq_none.2 h.ge, fun _ h => State.pop_eq_none.2 h, popCount_pushAll⟩

end Sys2Proof.Machine

/-! PROOFS. What each shared form of an instruction answers, and the register file after any instruction (10 R32, R33). -/

namespace Sys2Proof.Machine

/-! ### The instructions with more than one outcome -/

/-- RET pops into the pc, or fails on an empty stack. -/
theorem execRet_eq_next {s t : State} :
    execRet s = .next t ↔
      (∃ w u, s.pop = some (w, u) ∧ t = u.setPc w) ∨ (s.pop = none ∧ t = s.failWith .stackEmpty) := by
  rcases hpop : s.pop with _ | ⟨w, u⟩ <;> simp [execRet, hpop, eq_comm, and_assoc]

/-- CALL pushes and jumps, or fails on a full stack. -/
theorem execCall_eq_next {nnn : Addr} {s t : State} :
    execCall nnn s = .next t ↔
      (∃ u, s.push s.pc = some u ∧ t = u.setPc (zextAddr nnn)) ∨ (s.push s.pc = none ∧ t = s.failWith .stackFull) := by
  cases hpush : s.push s.pc <;> simp [execCall, hpush, eq_comm]

/-- DRW draws the rows it read. -/
theorem execDrw_eq_next {x y : Reg} {n : Nibble} {s t : State} :
    execDrw x y n s = .next t ↔ ∃ rows, s.mem.readRange s.i.toNat n.toNat = some rows ∧
      t = ((s.setDisp (drawSprite x y rows s).grid).setV regVF
        (flagByte (drawSprite x y rows s).collision)).markDisplay := by
  cases hread : s.mem.readRange s.i.toNat n.toNat <;> simp [execDrw, hread, eq_comm]

/-- LD B stores the digits. -/
theorem execLdB_eq_next {x : Reg} {s t : State} :
    execLdB x s = .next t ↔ s.storeAtI (decimalDigits (s.getV x)) = some t := by
  cases hstore : s.storeAtI (decimalDigits (s.getV x)) <;> simp [execLdB, hstore]

/-- LD [I], Vx stores the registers, then advances I. -/
theorem storeRegisters_eq_next {q : Quirks} {x : Reg} {s t : State} :
    storeRegisters q x s = .next t ↔
      ∃ u, s.storeAtI (firstRegisters x s) = some u ∧ t = advanceIndex q.loadStoreInc x u := by
  cases hstore : s.storeAtI (firstRegisters x s) <;> simp [storeRegisters, hstore, eq_comm]

/-- LD Vx, [I] loads the bytes it read, then advances I. -/
theorem loadRegisters_eq_next {q : Quirks} {x : Reg} {s t : State} :
    loadRegisters q x s = .next t ↔ ∃ bs, s.mem.readRange s.i.toNat (transferCount x) = some bs ∧
      t = advanceIndex q.loadStoreInc x (loadRegistersFrom 0 bs s) := by
  cases hread : s.mem.readRange s.i.toNat (transferCount x) <;> simp [loadRegisters, hread, eq_comm]

/-! ### Registers across the shared operations -/

@[simp] theorem State.getV_skipIf (s : State) (c : Bool) (r : Reg) : (s.skipIf c).getV r = s.getV r := by
  simp [State.skipIf_eq]

@[simp] theorem getV_advanceIndex (inc : Bool) (x : Reg) (s : State) (r : Reg) :
    (advanceIndex inc x s).getV r = s.getV r := by
  simp [advanceIndex_eq]

theorem State.getV_push {s t : State} {w : Word} (h : s.push w = some t) (r : Reg) : t.getV r = s.getV r := by
  obtain ⟨-, rfl⟩ := State.push_eq_some.1 h
  rfl

theorem State.getV_pop {s t : State} {w : Word} (h : s.pop = some (w, t)) (r : Reg) : t.getV r = s.getV r := by
  obtain ⟨ws, -, rfl⟩ := State.pop_eq_some.1 h
  rfl

theorem State.getV_storeAtI {s t : State} {bs : List Byte} (h : s.storeAtI bs = some t) (r : Reg) :
    t.getV r = s.getV r := by
  obtain ⟨-, rfl⟩ := State.storeAtI_eq_some.1 h
  rfl

/-- LD Vx, [I] leaves every register above x as it was. -/
theorem getV_loadRegisters_above {q : Quirks} {x r : Reg} {s t : State} (h : loadRegisters q x s = .next t)
    (hr : x < r) : t.getV r = s.getV r := by
  obtain ⟨bs, hread, rfl⟩ := loadRegisters_eq_next.1 h
  obtain ⟨-, rfl⟩ := Memory.readRange_eq_some.1 hread
  have hx : x.toNat < r.toNat := hr
  rw [getV_advanceIndex, getV_loadRegistersFrom _ _ _ (by simp [transferCount]; omega), if_neg]
  simp [transferCount]
  omega

/-! ### The register file after any instruction -/

/-- What an instruction may do to the register file: a flag writer leaves a flag in VF, and every register that is neither
its destination nor its flag is kept (10 R32, R33). -/
structure RegisterEffect (i : Instr) (s t : State) : Prop where
  flag : i.isFlagWriter = true → ∃ f : Bool, t.getV regVF = flagByte f
  kept : ∀ r : Reg, i.isDestination r = false → (r = regVF → i.isFlagWriter = false) → t.getV r = s.getV r

section

variable {i : Instr} {s t : State} {x : Reg} {b : Byte} {f : Bool}

/-- An instruction that writes no register. -/
theorem RegisterEffect.of_kept (hf : i.isFlagWriter = false) (h : ∀ r, t.getV r = s.getV r) : RegisterEffect i s t :=
  ⟨fun hf' => by simp [hf] at hf', fun r _ _ => h r⟩

/-- An instruction that writes its destination and no flag. -/
theorem RegisterEffect.of_setV (hf : i.isFlagWriter = false) (hd : i.isDestination x = true)
    (h : ∀ r, t.getV r = (s.setV x b).getV r) : RegisterEffect i s t where
  flag hf' := by simp [hf] at hf'
  kept r hr _ := by
    have hne : r ≠ x := fun e => by simp [e, hd] at hr
    rw [h, State.getV_setV_ne s b hne]

/-- An instruction that writes the flag and no other register. -/
theorem RegisterEffect.of_flag (hf : i.isFlagWriter = true)
    (h : ∀ r, t.getV r = (s.setV regVF (flagByte f)).getV r) : RegisterEffect i s t where
  flag _ := ⟨f, by rw [h, State.getV_setV_same]⟩
  kept r _ hr := by
    have hne : r ≠ regVF := fun e => by simp [hr e] at hf
    rw [h, State.getV_setV_ne s _ hne]

/-- An instruction that writes its destination and then the flag. -/
theorem RegisterEffect.of_writeFlagged (hf : i.isFlagWriter = true) (hd : i.isDestination x = true) :
    RegisterEffect i s (s.writeFlagged x b f) where
  flag _ := ⟨f, by simp [State.getV_writeFlagged]⟩
  kept r hr hr' := by
    have hne : r ≠ x := fun e => by simp [e, hd] at hr
    have hnf : r ≠ regVF := fun e => by simp [hr' e] at hf
    rw [State.getV_writeFlagged, if_neg hnf, if_neg hne]

/-- What every instruction does to the register file, by the way it writes it. -/
theorem exec_registerEffect (h : exec i s = .next t) : RegisterEffect i s t := by
  cases i with
  | ldImm | addImm | ldReg | orReg | andReg | xorReg | rnd | ldFromDt =>
    cases h
    exact .of_setV rfl (by simp [Instr.isDestination]) fun _ => rfl
  | addReg | sub | shr | subn | shl =>
    cases h
    exact .of_writeFlagged rfl (by simp [Instr.isDestination])
  | drw =>
    obtain ⟨rows, -, rfl⟩ := execDrw_eq_next.1 h
    exact .of_flag rfl fun _ => rfl
  | ldRegs x =>
    refine ⟨nofun, fun r hr _ => getV_loadRegisters_above h ?_⟩
    simpa [Instr.isDestination] using hr
  | ret =>
    obtain ⟨w, u, hpop, rfl⟩ | ⟨-, rfl⟩ := execRet_eq_next.1 h
    · exact .of_kept rfl fun r => (State.getV_setPc u w r).trans (State.getV_pop hpop r)
    · exact .of_kept rfl fun _ => rfl
  | call =>
    obtain ⟨u, hpush, rfl⟩ | ⟨-, rfl⟩ := execCall_eq_next.1 h
    · exact .of_kept rfl fun r => (State.getV_setPc u _ r).trans (State.getV_push hpush r)
    · exact .of_kept rfl fun _ => rfl
  | ldB => exact .of_kept rfl (State.getV_storeAtI (execLdB_eq_next.1 h))
  | stRegs x =>
    obtain ⟨u, hstore, rfl⟩ := storeRegisters_eq_next.1 h
    exact .of_kept rfl fun r => (getV_advanceIndex _ x u r).trans (State.getV_storeAtI hstore r)
  | seImm | sneImm | seReg | sneReg =>
    cases h
    exact .of_kept rfl (State.getV_skipIf s _)
  | cls | sys | jp | jpV0 | invalid8 | invalidE | invalidF | ldI | addI | ldF | skp | sknp | ldK | ldDt | ldSt =>
    cases h
    exact .of_kept rfl fun _ => rfl

end

/-- A flag as a register value is 0 or 1. -/
theorem flagByte_eq_zero_or_one (f : Bool) : flagByte f = 0#8 ∨ flagByte f = 1#8 := by
  cases f <;> simp [flagByte]

/-- Settles O57: VF is one of the registers `exec_registerEffect` speaks of. -/
theorem flagInstructionsWriteVF : Obligations.FlagInstructionsWriteVF := by
  intro i s t h
  obtain ⟨hflag, hkept⟩ := exec_registerEffect h
  refine ⟨fun hf => ?_, fun hf hd => hkept regVF hd fun _ => hf⟩
  obtain ⟨f, hvf⟩ := hflag hf
  exact hvf ▸ flagByte_eq_zero_or_one f

end Sys2Proof.Machine

/-! PROOFS. Memory: a range write byte by byte, and the read of a byte just written (20 R75, R76). -/

namespace Sys2Proof.Machine

section

variable {m m' : Memory} {a : Nat} {bs : List Byte}

/-- A range write leaves its k-th byte k addresses above its first. -/
theorem Memory.read_writeRange_inside (hm : m.wf = true) (h : m.writeRange a bs = some m') {k : Nat}
    (hk : k < bs.length) : m'.read (a + k) = bs.getD k 0#8 := by
  obtain ⟨hfit, rfl⟩ := Memory.writeRange_eq_some.1 h
  rw [Memory.read_writeAll hm hfit, if_pos (by omega), Nat.add_sub_cancel_left]

/-- A range write leaves every byte outside its range as it was. -/
theorem Memory.read_writeRange_outside (hm : m.wf = true) (h : m.writeRange a bs = some m') {c : Nat}
    (hc : c < a ∨ a + bs.length ≤ c) : m'.read c = m.read c := by
  obtain ⟨hfit, rfl⟩ := Memory.writeRange_eq_some.1 h
  rw [Memory.read_writeAll hm hfit, if_neg (by omega)]

/-- Reading back the range just written gives the bytes written. -/
theorem Memory.readRange_writeRange (hm : m.wf = true) (h : m.writeRange a bs = some m') :
    m'.readRange a bs.length = some bs := by
  have hfit : a + bs.length ≤ memSize := (Memory.writeRange_eq_some.1 h).1
  refine Memory.readRange_eq_some.2 ⟨.inr hfit, List.ext_getElem (by simp) fun k hk _ => ?_⟩
  rw [List.getElem_map, List.getElem_range, Memory.read_writeRange_inside hm h hk, List.getD_eq_getElem _ _ hk]

end

/-- Settles O49: a write of one byte is a range write, which `Memory.readRange_writeRange` reads back. -/
theorem readAfterWrite : Obligations.ReadAfterWrite := by
  intro m a b hm
  refine ⟨fun ha => ?_, fun ha => ⟨?_, ?_⟩⟩
  · have hwrite : m.writeRange a [b] = some (m.writeAll a [b]) := Memory.writeRange_eq_some.2 ⟨ha, rfl⟩
    exact ⟨_, hwrite, Memory.readRange_writeRange hm hwrite⟩
  · exact Memory.writeRange_eq_none.2 (Nat.lt_succ_of_le ha)
  · exact Memory.readRange_eq_none.2 ⟨Nat.one_ne_zero, Nat.lt_succ_of_le ha⟩

/-- Settles O50: a write that fits has its bytes inside its range and the old ones outside, and no other write is made. -/
theorem rangeWriteIsAllOrNothing : Obligations.RangeWriteIsAllOrNothing := by
  intro m a bs hm
  refine ⟨fun hfit => ?_, Memory.writeRange_eq_none.2⟩
  have hwrite : m.writeRange a bs = some (m.writeAll a bs) := Memory.writeRange_eq_some.2 ⟨hfit, rfl⟩
  exact ⟨_, hwrite, fun _ => Memory.read_writeRange_inside hm hwrite, fun _ => Memory.read_writeRange_outside hm hwrite⟩

end Sys2Proof.Machine

/-! PROOFS. The fetch: the two bytes it reads, and what a failed one leaves (40 R132 to R134). -/

namespace Sys2Proof.Machine

/-- A read of two bytes that fits gives them in ascending order of address. -/
theorem Memory.readRange_two (m : Memory) {a : Nat} (h : a + 2 ≤ memSize) :
    m.readRange a 2 = some [m.read a, m.read (a + 1)] :=
  Memory.readRange_eq_some.2 ⟨.inr h, rfl⟩

/-- The fetch fails exactly from address 4095 on. -/
theorem State.fetch_eq_none {s : State} : s.fetch = none ↔ 4095 ≤ s.pc.toNat := by
  rw [State.fetch_eq, ite_eq_right_iff]
  simp only [reduceCtorEq, imp_false]
  omega

/-- Settles O5: both ranges are those of `Memory.readRange` with two bytes, and `State.fetch_eq` gives the word. -/
theorem fetchReadsTwoBytesBigEndian : Obligations.FetchReadsTwoBytesBigEndian := by
  intro s
  refine ⟨fun hfit => ⟨?_, ?_⟩, fun hout => ⟨?_, State.fetch_eq_none.2 hout⟩⟩
  · exact Memory.readRange_two _ (Nat.add_le_add_right hfit 2)
  · rw [State.fetch_eq, if_pos hfit]
    rfl
  · exact Memory.readRange_eq_none.2 ⟨two_ne_zero, Nat.add_le_add_right hout 2⟩

/-- A failed fetch writes the pc, `halted_fetch` and the record, and draws a free value. -/
theorem State.fetchFailed_onlyChanges (s : State) :
    OnlyChanges [.pc, .haltedFetch, .result, .freeIndex] s s.fetchFailed := by
  intro p hp
  cases p with
  | pc | haltedFetch | result | freeIndex => simp at hp
  | v | mem => exact fun _ => rfl
  | disp => exact fun _ _ => rfl
  | i | dt | st | stack | activeFont | fault => rfl

/-- Settles O7: the step of a fetch that fails answers `State.fetchFailed`. -/
theorem fetchFailureHaltsTheEngine : Obligations.FetchFailureHaltsTheEngine := by
  rintro s ⟨hfault, hhalted⟩ hpc
  exact ⟨s.fetchFailed, step_of_fetch_none hfault hhalted (State.fetch_eq_none.2 hpc), rfl, rfl, rfl, rfl, rfl,
    s.fetchFailed_onlyChanges⟩

end Sys2Proof.Machine

/-! PROOFS. The record across the shared operations, and the ways an instruction ends (40 R136, R138, R142). -/

namespace Sys2Proof.Machine

/-! ### The record across the shared operations -/

@[simp] theorem State.skipIf_result (s : State) (c : Bool) : (s.skipIf c).result = s.result := by
  rw [State.skipIf_eq, State.setPc_result]

@[simp] theorem advanceIndex_result (inc : Bool) (x : Reg) (s : State) : (advanceIndex inc x s).result = s.result := by
  rw [advanceIndex_eq, State.setI_result]

@[simp] theorem loadRegistersFrom_result (k : Nat) (bs : List Byte) (s : State) :
    (loadRegistersFrom k bs s).result = s.result := by
  rw [loadRegistersFrom_eq]

theorem State.push_result {s t : State} {w : Word} (h : s.push w = some t) : t.result = s.result := by
  obtain ⟨-, rfl⟩ := State.push_eq_some.1 h
  rfl

theorem State.pop_result {s t : State} {w : Word} (h : s.pop = some (w, t)) : t.result = s.result := by
  obtain ⟨ws, -, rfl⟩ := State.pop_eq_some.1 h
  rfl

theorem State.storeAtI_result {s t : State} {bs : List Byte} (h : s.storeAtI bs = some t) : t.result = s.result := by
  obtain ⟨-, rfl⟩ := State.storeAtI_eq_some.1 h
  rfl

/-! ### The record after any instruction -/

/-- How an instruction that answers a next state leaves the record: it completes, keeps status and opcode and raises the flag
that is its own (40 R142), or it fails, is no instruction with a flag, and writes nothing but the failure (40 R138). -/
inductive RecordEffect (i : Instr) (s t : State) : Prop
  | completes (h : t.result = { s.result with
      displayMutated := s.result.displayMutated || i.mayWriteDisp
      soundWritten := s.result.soundWritten || i.isLdSt })
  | fails (f : Status) (hf : f ≠ .success) (hd : i.mayWriteDisp = false) (hs : i.isLdSt = false)
      (h : t = s.failWith f)

section

variable {i : Instr} {s t : State}

/-- An instruction with no flag of its own that completes keeps the record. -/
theorem RecordEffect.of_kept (hd : i.mayWriteDisp = false) (hs : i.isLdSt = false) (h : t.result = s.result) :
    RecordEffect i s t :=
  .completes (by simp [h, hd, hs])

/-- CLS and DRW complete with display_mutated raised. -/
theorem RecordEffect.of_markDisplay (hd : i.mayWriteDisp = true) (hs : i.isLdSt = false)
    (h : t.result = s.markDisplay.result) : RecordEffect i s t :=
  .completes (by simp [h, hd, hs])

/-- What every instruction does to the record, by the way it ends. -/
theorem exec_recordEffect (h : exec i s = .next t) : RecordEffect i s t := by
  cases i with
  | sys | skp | sknp | ldK =>
    cases h
    exact .fails .instructionNotImplemented nofun rfl rfl rfl
  | invalid8 | invalidE | invalidF =>
    cases h
    exact .fails .instructionInvalid nofun rfl rfl rfl
  | ret =>
    obtain ⟨w, u, hpop, rfl⟩ | ⟨-, rfl⟩ := execRet_eq_next.1 h
    · exact .of_kept rfl rfl ((State.setPc_result u w).trans (State.pop_result hpop))
    · exact .fails .stackEmpty nofun rfl rfl rfl
  | call =>
    obtain ⟨u, hpush, rfl⟩ | ⟨-, rfl⟩ := execCall_eq_next.1 h
    · exact .of_kept rfl rfl ((State.setPc_result u _).trans (State.push_result hpush))
    · exact .fails .stackFull nofun rfl rfl rfl
  | cls =>
    cases h
    exact .of_markDisplay rfl rfl rfl
  | drw =>
    obtain ⟨rows, -, rfl⟩ := execDrw_eq_next.1 h
    exact .of_markDisplay rfl rfl rfl
  | ldSt =>
    cases h
    exact .completes (by simp [Instr.mayWriteDisp, Instr.isLdSt])
  | ldB => exact .of_kept rfl rfl (State.storeAtI_result (execLdB_eq_next.1 h))
  | stRegs =>
    obtain ⟨u, hstore, rfl⟩ := storeRegisters_eq_next.1 h
    exact .of_kept rfl rfl ((advanceIndex_result _ _ u).trans (State.storeAtI_result hstore))
  | ldRegs =>
    obtain ⟨bs, -, rfl⟩ := loadRegisters_eq_next.1 h
    exact .of_kept rfl rfl (by simp)
  | seImm | sneImm | seReg | sneReg =>
    cases h
    exact .of_kept rfl rfl (State.skipIf_result s _)
  | ldImm | addImm | ldReg | orReg | andReg | xorReg | addReg | sub | shr | subn | shl | rnd | jp | jpV0 | ldI | addI
  | ldF | ldFromDt | ldDt =>
    cases h
    exact .of_kept rfl rfl rfl

end

/-- Settles O9: a next state is one of the two of `exec_recordEffect`, and no other stop than the model fault exists. -/
theorem instructionEndsInOneOfThreeWays : Obligations.InstructionEndsInOneOfThreeWays := by
  intro i s hstart
  cases hexec : exec i s with
  | next t =>
    cases exec_recordEffect hexec with
    | completes hresult => exact .inl ⟨t, rfl, by rw [hresult, hstart]⟩
    | fails f hf _ _ ht => exact .inr (.inl ⟨f, hf, by rw [ht, State.failWith]⟩)
  | fault r => exact .inr (.inr (by rw [exec_fault hexec]))
  | refused r => exact absurd hexec (exec_ne_refused i s r)

/-- Settles O11: the record starts with the opcode and both flags 0, and `exec_recordEffect` says what the decoded instruction
makes of it. -/
theorem resultRecordOfAStep : Obligations.ResultRecordOfAStep := by
  rintro s t op ⟨hfault, hhalted⟩ hfetch hstep
  rw [step_of_fetch hfault hhalted hfetch] at hstep
  cases exec_recordEffect hstep with
  | completes hresult => simp [hresult, StepResult.start]
  | fails f _ hd hs ht => simp [ht, hd, hs, StepResult.start]

end Sys2Proof.Machine

/-! PROOFS. Frames of the shared operations, and the control-flow instructions (41 R154 to R160). -/

namespace Sys2Proof.Machine

/-! ### Frames -/

theorem Part.Same.trans {s t u : State} {p : Part} (hst : p.Same s t) (htu : p.Same t u) : p.Same s u := by
  cases p with
  | v | mem => exact fun a => (htu a).trans (hst a)
  | disp => exact fun c r => (htu c r).trans (hst c r)
  | _ => exact Eq.trans htu hst

/-- Two changes in a row change the parts of either. -/
theorem OnlyChanges.trans {ps qs : List Part} {s t u : State} (hst : OnlyChanges ps s t) (htu : OnlyChanges qs t u) :
    OnlyChanges (ps ++ qs) s u := fun p hp =>
  (hst p fun h => hp (List.mem_append_left _ h)).trans (htu p fun h => hp (List.mem_append_right _ h))

theorem State.setPc_onlyChanges (s : State) (w : Word) : OnlyChanges [.pc] s (s.setPc w) := by
  intro p hp
  cases p with
  | pc => simp at hp
  | _ => simp [Part.Same]

theorem State.failWith_onlyChanges (s : State) (f : Status) : OnlyChanges [.result] s (s.failWith f) := by
  intro p hp
  cases p with
  | result => simp at hp
  | _ => simp [Part.Same]

theorem State.push_onlyChanges {s t : State} {w : Word} (h : s.push w = some t) : OnlyChanges [.stack] s t := by
  obtain ⟨-, rfl⟩ := State.push_eq_some.1 h
  intro p hp
  cases p with
  | stack => simp at hp
  | _ => simp [Part.Same, State.getV]

theorem State.skipIf_onlyChanges (s : State) (c : Bool) : OnlyChanges [.pc] s (s.skipIf c) :=
  State.skipIf_eq s c ▸ s.setPc_onlyChanges _

/-! ### The pc after a skip and after a jump with an offset -/

/-- A skip on equal bytes, the condition of SE. -/
theorem State.skipIf_beq_pc (s : State) (a b : Byte) :
    (s.skipIf (a == b)).pc = if a = b then s.pc + 2#16 else s.pc := by
  simp [State.skipIf_eq]

/-- A skip on unequal bytes, the condition of SNE. -/
theorem State.skipIf_bne_pc (s : State) (a b : Byte) :
    (s.skipIf (a != b)).pc = if a = b then s.pc else s.pc + 2#16 := by
  simp [State.skipIf_eq]

/-- The target of JP V0 is the unbounded sum: 12 and 8 bits stay within 16 (41 R160). -/
theorem jumpTarget_toNat (useV0 : Bool) (nnn : Addr) (s : State) :
    (jumpTarget useV0 nnn s).toNat = nnn.toNat + (s.getV (jumpRegister useV0 nnn)).toNat := by
  have hnnn : nnn.toNat < 4096 := nnn.isLt
  have hv : (s.getV (jumpRegister useV0 nnn)).toNat < 256 := BitVec.isLt _
  simp only [jumpTarget, zextAddr, zextByte, BitVec.toNat_add, BitVec.toNat_setWidth]
  omega

theorem jumpTarget_le (useV0 : Bool) (nnn : Addr) (s : State) : (jumpTarget useV0 nnn s).toNat ≤ 0x10FE := by
  have hnnn : nnn.toNat < 4096 := nnn.isLt
  have hv : (s.getV (jumpRegister useV0 nnn)).toNat < 256 := BitVec.isLt _
  rw [jumpTarget_toNat]
  omega

/-- The byte JP V0 adds, by the mode. -/
theorem getV_jumpRegister_toNat (useV0 : Bool) (nnn : Addr) (s : State) :
    (s.getV (jumpRegister useV0 nnn)).toNat =
      if useV0 = true then (s.getV 0x0#4).toNat else (s.getV (nnn.extractLsb' 8 4)).toNat := by
  cases useV0 <;> rfl

/-! ### The obligations -/

/-- Settles O17: JP is a write of the pc. -/
theorem jpJumps : Obligations.JpJumps := fun nnn s =>
  ⟨by rw [decode_group1 (opGroup_wordNNN _ _), opNNN_wordNNN], _, rfl, rfl, s.setPc_onlyChanges _⟩

/-- Settles O19: the two outcomes of CALL are those of its push. -/
theorem callPushesAndJumps : Obligations.CallPushesAndJumps := by
  intro nnn s
  refine ⟨by rw [decode_group2 (opGroup_wordNNN _ _), opNNN_wordNNN], fun hroom => ?_, fun hfull => ?_⟩
  · have hpush : s.push s.pc = some { s with stack := s.stack ++ [s.pc] } := State.push_eq_some.2 ⟨hroom, rfl⟩
    exact ⟨_, execCall_eq_next.2 (.inl ⟨_, hpush, rfl⟩), rfl, rfl,
      (State.push_onlyChanges hpush).trans (State.setPc_onlyChanges _ _)⟩
  · have hpush : s.push s.pc = none := State.push_eq_none.2 hfull.ge
    exact ⟨_, execCall_eq_next.2 (.inr ⟨hpush, rfl⟩), rfl, rfl, rfl, rfl, s.failWith_onlyChanges _⟩

/-- Settles O22: each skip is `State.skipIf` on its comparison. -/
theorem skipsOnAnImmediate : Obligations.SkipsOnAnImmediate := by
  intro x kk s
  refine ⟨?_, ?_, ⟨_, rfl, s.skipIf_beq_pc _ _, s.skipIf_onlyChanges _⟩,
    ⟨_, rfl, s.skipIf_bne_pc _ _, s.skipIf_onlyChanges _⟩⟩
  · rw [decode_group3 (opGroup_wordXKK _ _ _), opX_wordXKK, opKK_wordXKK]
  · rw [decode_group4 (opGroup_wordXKK _ _ _), opX_wordXKK, opKK_wordXKK]

/-- Settles O23: the low nibble is decoded into the instruction, which does not read it. -/
theorem skipsOnTwoRegisters : Obligations.SkipsOnTwoRegisters := by
  intro x y z s
  refine ⟨?_, ?_, ⟨_, rfl, s.skipIf_beq_pc _ _, s.skipIf_onlyChanges _⟩,
    ⟨_, rfl, s.skipIf_bne_pc _ _, s.skipIf_onlyChanges _⟩⟩
  · rw [decode_group5 (opGroup_wordXYN _ _ _ _), opX_wordXYN, opY_wordXYN, opN_wordXYN]
  · rw [decode_group9 (opGroup_wordXYN _ _ _ _), opX_wordXYN, opY_wordXYN, opN_wordXYN]

/-- Settles O24: JP V0 is a write of the pc by `jumpTarget`, which does not wrap. -/
theorem jpV0AddsTheRegister : Obligations.JpV0AddsTheRegister := by
  intro nnn q s
  refine ⟨by rw [decode_groupB (opGroup_wordNNN _ _), opNNN_wordNNN], s.setPc (jumpTarget q.jumpV0 nnn s), rfl, ?_, ?_,
    jumpTarget_le _ _ _, s.setPc_onlyChanges _⟩
  · intro hq
    rw [← execWith_run, ← hq]
    rfl
  · rw [State.setPc_pc, jumpTarget_toNat, getV_jumpRegister_toNat]

end Sys2Proof.Machine

/-! PROOFS. Register writes with and without a flag, and the loads, the logic and the additions (42 R181 to R187). -/

namespace Sys2Proof.Machine

/-! ### Register writes -/

theorem State.setV_onlyRegisters (s : State) (x : Reg) (b : Byte) : OnlyRegisters [x] s (s.setV x b) :=
  fun _ hr => s.getV_setV_ne b (List.ne_of_not_mem_cons hr)

theorem State.setV_onlyChanges (s : State) (x : Reg) (b : Byte) : OnlyChanges [.v] s (s.setV x b) := by
  intro p hp
  cases p with
  | v => simp at hp
  | _ => simp [Part.Same]

/-- A register write leaves its byte in its register and every other register and part as it was. -/
theorem State.setV_writesOnly (s : State) (x : Reg) (b : Byte) :
    (s.setV x b).getV x = b ∧ OnlyRegisters [x] s (s.setV x b) ∧ OnlyChanges [.v] s (s.setV x b) :=
  ⟨s.getV_setV_same x b, s.setV_onlyRegisters x b, s.setV_onlyChanges x b⟩

/-- With a flag, the destination holds the result unless it is VF. -/
theorem State.getV_writeFlagged_dest (s : State) {x : Reg} (b : Byte) (f : Bool) (hx : x ≠ regVF) :
    (s.writeFlagged x b f).getV x = b := by
  rw [State.getV_writeFlagged, if_neg hx, if_pos rfl]

/-- VF holds the flag, whatever the destination. -/
theorem State.getV_writeFlagged_flag (s : State) (x : Reg) (b : Byte) (f : Bool) :
    (s.writeFlagged x b f).getV regVF = flagByte f := by
  rw [State.getV_writeFlagged, if_pos rfl]

theorem State.writeFlagged_onlyRegisters (s : State) (x : Reg) (b : Byte) (f : Bool) :
    OnlyRegisters [x, regVF] s (s.writeFlagged x b f) := by
  intro r hr
  obtain ⟨hx, hf⟩ : r ≠ x ∧ r ≠ regVF := by simpa using hr
  rw [State.getV_writeFlagged, if_neg hf, if_neg hx]

theorem State.writeFlagged_onlyChanges (s : State) (x : Reg) (b : Byte) (f : Bool) :
    OnlyChanges [.v] s (s.writeFlagged x b f) := by
  intro p hp
  cases p with
  | v => simp at hp
  | _ => simp [Part.Same]

/-- The flag byte of a comparison. -/
theorem flagByte_decide (p : Prop) [Decidable p] : flagByte (decide p) = if p then 1#8 else 0#8 := by
  simp [flagByte]

/-! ### The words of group 8 -/

/-- A word of group 8 is decoded by its low nibble (30 R107). -/
theorem decode_wordXYN_group8 (x y : Reg) (n : Nibble) :
    decode (wordXYN 0x8#4 x y n) = decode8 (wordXYN 0x8#4 x y n) :=
  decode_group8 (opGroup_wordXYN _ _ _ _)

/-! ### The obligations -/

/-- Settles O25: both are a register write and nothing else. -/
theorem loadAndAddImmediate : Obligations.LoadAndAddImmediate := by
  intro x kk s
  refine ⟨?_, ?_, ⟨_, rfl, s.setV_writesOnly _ _⟩,
    ⟨_, rfl, ?_, s.setV_onlyRegisters _ _, s.setV_onlyChanges _ _⟩⟩
  · rw [decode_group6 (opGroup_wordXKK _ _ _), opX_wordXKK, opKK_wordXKK]
  · rw [decode_group7 (opGroup_wordXKK _ _ _), opX_wordXKK, opKK_wordXKK]
  · rw [State.getV_setV_same, BitVec.toNat_add]

/-- Settles O26: each of the four is a register write and nothing else. -/
theorem copyAndLogic : Obligations.CopyAndLogic := by
  intro x y s
  refine ⟨?_, ?_, ?_, ?_, ⟨_, rfl, s.setV_writesOnly _ _⟩, ⟨_, rfl, s.setV_writesOnly _ _⟩,
    ⟨_, rfl, s.setV_writesOnly _ _⟩, ⟨_, rfl, s.setV_writesOnly _ _⟩⟩ <;>
    simp [decode_wordXYN_group8, decode8]

/-- Settles O27: ADD is `State.writeFlagged` with the carry, which VF holds last, also as the destination. -/
theorem addWritesTheCarry : Obligations.AddWritesTheCarry := by
  intro x y s
  refine ⟨by simp [decode_wordXYN_group8, decode8], _, rfl, fun hx => ?_, ?_, s.writeFlagged_onlyRegisters _ _ _,
    s.writeFlagged_onlyChanges _ _ _⟩
  · rw [State.getV_writeFlagged_dest s _ _ hx, BitVec.toNat_add]
  · exact (s.getV_writeFlagged_flag _ _ _).trans (flagByte_decide _)

end Sys2Proof.Machine

/-! PROOFS. Writes of the index register, and the glyph address (43 R221, R223). -/

namespace Sys2Proof.Machine

theorem State.setI_onlyChanges (s : State) (w : Word) : OnlyChanges [.i] s (s.setI w) := by
  intro p hp
  cases p with
  | i => simp at hp
  | _ => simp [Part.Same]

/-- An address of 12 bits keeps its value as a word. -/
theorem zextAddr_toNat (nnn : Addr) : (zextAddr nnn).toNat = nnn.toNat :=
  BitVec.toNat_setWidth_of_le (by decide)

/-- The mask of R223 keeps the low nibble of a byte. -/
theorem and_mask_lowNibble_toNat (b : Byte) : (b &&& 0x0F#8).toNat = b.toNat % 16 :=
  Nat.and_two_pow_sub_one_eq_mod b.toNat 4

/-- A glyph's address does not wrap: the font region ends at or below 0x200 (20 R82). -/
theorem glyphAddress_toNat (b : Byte) :
    (glyphAddress Config.fontBase b).toNat = Config.fontBase + 5 * (b.toNat % 16) := by
  have hend := fontRegion_end
  rw [glyphAddress, BitVec.toNat_ofNat, and_mask_lowNibble_toNat, glyphSize_eq]
  omega

/-- Settles O31: LD I is a write of I by the address, which keeps its value. -/
theorem ldILoadsTheAddress : Obligations.LdILoadsTheAddress := fun nnn s =>
  ⟨by rw [decode_groupA (opGroup_wordNNN _ _), opNNN_wordNNN], _, rfl, zextAddr_toNat nnn, s.setI_onlyChanges _⟩

/-- Settles O33: LD F is a write of I by `glyphAddress`, which does not wrap. -/
theorem ldFPointsAtTheGlyph : Obligations.LdFPointsAtTheGlyph := by
  intro x s
  refine ⟨?_, _, rfl, glyphAddress_toNat _, s.setI_onlyChanges _⟩
  rw [decode_groupF (opGroup_wordXKK _ _ _)]
  simp [decodeF]

end Sys2Proof.Machine

/-! PROOFS. DRW: the sprite drawn is the set of pixels of `spritePixel`, and the frame of the draw (44 R252 to R259). -/

namespace Sys2Proof.Machine

/-! ### Frames of the display writes -/

/-- A frame with more parts says less. -/
theorem OnlyChanges.mono {ps qs : List Part} {s t : State} (h : OnlyChanges ps s t) (hsub : ps ⊆ qs) :
    OnlyChanges qs s t := fun p hp => h p fun hps => hp (hsub hps)

theorem State.setDisp_onlyChanges (s : State) (d : Display) : OnlyChanges [.disp] s (s.setDisp d) := by
  intro p hp
  cases p with
  | disp => simp at hp
  | _ => simp [Part.Same]

theorem State.markDisplay_onlyChanges (s : State) : OnlyChanges [.result] s s.markDisplay := by
  intro p hp
  cases p with
  | result => simp at hp
  | _ => simp [Part.Same]

/-! ### The bytes of a range read -/

theorem Memory.length_readRange {m : Memory} {a k : Nat} {bs : List Byte} (hread : m.readRange a k = some bs) :
    bs.length = k := by
  obtain ⟨-, rfl⟩ := Memory.readRange_eq_some.1 hread
  rw [List.length_map, List.length_range]

/-- Byte j of a range read is the one j addresses above its first. -/
theorem Memory.getD_readRange {m : Memory} {a k : Nat} {bs : List Byte} (hread : m.readRange a k = some bs) {j : Nat}
    (hj : j < k) : bs.getD j 0#8 = m.read (a + j) := by
  obtain ⟨-, rfl⟩ := Memory.readRange_eq_some.1 hread
  rw [List.getD_eq_getElem _ _ (by simpa using hj), List.getElem_map, List.getElem_range]

/-! ### The sprite drawn and the sprite as a set of pixels -/

/-- The sprite covers the 8 columns from its origin and its n rows, where its bit is 1. -/
theorem spritePixel_eq_true {s : State} {x y : Reg} {n : Nibble} {c r : Nat} :
    spritePixel s x y n c r = true ↔
      (originY y s ≤ r ∧ r < originY y s + n.toNat ∧ originX x s ≤ c ∧ c < originX x s + 8) ∧
        spriteBit (s.mem.read (s.i.toNat + (r - originY y s))) (c - originX x s) = true := by
  simp only [spritePixel, originX, originY, spriteBit, Bool.and_eq_true, decide_eq_true_eq]
  tauto

section

variable {s : State} {n : Nibble} {rows : List Byte} (hread : s.mem.readRange s.i.toNat n.toNat = some rows) (x y : Reg)
include hread

/-- A pixel of the sprite, from the rows read. -/
theorem spritePixel_of_readRange (c r : Nat) :
    spritePixel s x y n c r =
      (decide (originY y s ≤ r ∧ r < originY y s + rows.length ∧ originX x s ≤ c ∧ c < originX x s + 8) &&
        spriteBit (rows.getD (r - originY y s) 0#8) (c - originX x s)) := by
  rw [Bool.eq_iff_iff, spritePixel_eq_true, Bool.and_eq_true, decide_eq_true_eq, Memory.length_readRange hread]
  refine and_congr_right fun ⟨hle, hlt, _⟩ => ?_
  rw [Memory.getD_readRange hread (by omega)]

/-- Drawing XORs the sprite into the grid. -/
theorem pixel_drawSprite {c r : Nat} (hc : c < 64) (hr : r < 32) :
    Display.pixel (drawSprite x y rows s).grid c r = (Display.pixel s.disp c r ^^ spritePixel s x y n c r) := by
  rw [drawSprite, pixel_drawRows _ _ _ _ hc hr, spritePixel_of_readRange hread]

/-- The draw collides exactly when the sprite covers a pixel that is on. -/
theorem collision_drawSprite : (drawSprite x y rows s).collision = true ↔ SpriteHits s x y n := by
  simp only [drawSprite, collision_drawRows, Bool.false_eq_true, false_or, SpriteHits, spritePixel_of_readRange hread,
    Bool.and_eq_true, decide_eq_true_eq]
  constructor
  · rintro ⟨j, hj, i, hi, hbit, hon⟩
    obtain ⟨hc, hr⟩ : originX x s + i < 64 ∧ originY y s + j < 32 :=
      not_not.1 fun hout => by simp [Display.pixel_outside _ hout] at hon
    refine ⟨_, _, hc, hr, hon, by omega, ?_⟩
    rwa [Nat.add_sub_cancel_left, Nat.add_sub_cancel_left]
  · rintro ⟨c, r, -, -, hon, ⟨hr, hr', hc, hc'⟩, hbit⟩
    refine ⟨r - originY y s, by omega, c - originX x s, by omega, hbit, ?_⟩
    rwa [Nat.add_sub_cancel' hc, Nat.add_sub_cancel' hr]

end

/-! ### The obligation -/

/-- Settles O39: DRW draws the rows of its range read, whose pixels and collision are those of the sprite. -/
theorem drwXorsTheClippedSprite : Obligations.DrwXorsTheClippedSprite := by
  intro x y n s hfit
  have hread : s.mem.readRange s.i.toNat n.toNat = some ((List.range n.toNat).map fun k => s.mem.read (s.i.toNat + k)) :=
    Memory.readRange_eq_some.2 ⟨.inr hfit, rfl⟩
  refine ⟨?_, _, execDrw_eq_next.2 ⟨_, hread, rfl⟩, fun c r hc hr => ?_, fun hhit => ?_, fun hmiss => ?_, rfl,
    ?_, ?_⟩
  · rw [decode_groupD (opGroup_wordXYN _ _ _ _), opX_wordXYN, opY_wordXYN, opN_wordXYN]
  · exact pixel_drawSprite hread x y hc hr
  · rw [State.getV_markDisplay, State.getV_setV_same, (collision_drawSprite hread x y).2 hhit]
    rfl
  · rw [State.getV_markDisplay, State.getV_setV_same, Bool.eq_false_iff.2 (mt (collision_drawSprite hread x y).1 hmiss)]
    rfl
  · exact (s.setDisp _).setV_onlyRegisters regVF _
  · exact (((s.setDisp_onlyChanges _).trans (State.setV_onlyChanges _ _ _)).trans
      (State.markDisplay_onlyChanges _)).mono (by decide)

end Sys2Proof.Machine

/-! PROOFS. The timer instructions: the words of group F that spell them, and the frames of their writes (45 R280 to R282). -/

namespace Sys2Proof.Machine

/-! ### The words of group F -/

/-- A word of group F is decoded by its low byte (30 R109). -/
theorem decode_wordXKK_groupF (x : Reg) (kk : Byte) : decode (wordXKK 0xF#4 x kk) = decodeF (wordXKK 0xF#4 x kk) :=
  decode_groupF (opGroup_wordXKK _ _ _)

/-! ### Frames of the timer writes -/

theorem State.setDT_onlyChanges (s : State) (b : Byte) : OnlyChanges [.dt] s (s.setDT b) := by
  intro p hp
  cases p with
  | dt => simp at hp
  | _ => simp [Part.Same]

theorem State.setST_onlyChanges (s : State) (b : Byte) : OnlyChanges [.st] s (s.setST b) := by
  intro p hp
  cases p with
  | st => simp at hp
  | _ => simp [Part.Same]

theorem State.markSound_onlyChanges (s : State) : OnlyChanges [.result] s s.markSound := by
  intro p hp
  cases p with
  | result => simp at hp
  | _ => simp [Part.Same]

/-! ### The obligation -/

/-- Settles O41: each is one write of its destination; LD ST marks the sound flag as well, whatever the byte. -/
theorem timerInstructions : Obligations.TimerInstructions := by
  intro x s
  refine ⟨?_, ?_, ?_, ⟨_, rfl, s.setV_writesOnly _ _⟩, ⟨_, rfl, rfl, s.setDT_onlyChanges _⟩,
    _, rfl, rfl, rfl, (s.setST_onlyChanges _).trans (State.markSound_onlyChanges _)⟩ <;>
    simp [decode_wordXKK_groupF, decodeF]

end Sys2Proof.Machine

/-! PROOFS. The decoder and the encoder are inverse to each other (30 sections 1 to 3). -/

namespace Sys2Proof.Machine

/-! ### Decode of encode -/

/-- A word of group 0 but 00E0 and 00EE decodes to SYS (30 R106). -/
theorem decode_wordNNN_sys {nnn : Addr} (h : sysOperand nnn = true) : decode (wordNNN 0x0#4 nnn) = .sys nnn := by
  have hcls : wordNNN 0x0#4 nnn ≠ 0x00E0#16 := fun e => by
    rw [← opNNN_wordNNN 0x0#4 nnn, e] at h
    simp [sysOperand, opNNN] at h
  have hret : wordNNN 0x0#4 nnn ≠ 0x00EE#16 := fun e => by
    rw [← opNNN_wordNNN 0x0#4 nnn, e] at h
    simp [sysOperand, opNNN] at h
  rw [decode_group0 (opGroup_wordNNN _ _), decode0, if_neg hcls, if_neg hret, opNNN_wordNNN]

/-- A low nibble of group 8 with no instruction decodes to the invalid row (30 R107). -/
theorem decode_wordXYN_invalid8 {x y : Reg} {n : Nibble} (h : invalidAluNibble n = true) :
    decode (wordXYN 0x8#4 x y n) = .invalid8 x y n := by
  rw [decode_wordXYN_group8]
  simp only [invalidAluNibble, Bool.or_eq_true, beq_iff_eq, or_assoc] at h
  rcases h with rfl | rfl | rfl | rfl | rfl | rfl | rfl <;> simp [decode8]

/-- A word of group E is decoded by its low byte (30 R108). -/
theorem decode_wordXKK_groupE (x : Reg) (ss : Byte) : decode (wordXKK 0xE#4 x ss) = decodeE (wordXKK 0xE#4 x ss) :=
  decode_groupE (opGroup_wordXKK _ _ _)

/-- A low byte of group E with no instruction decodes to the invalid row (30 R108). -/
theorem decode_wordXKK_invalidE {x : Reg} {ss : Byte} (h : invalidKeyByte ss = true) :
    decode (wordXKK 0xE#4 x ss) = .invalidE x ss := by
  rw [decode_wordXKK_groupE]
  simp_all [decodeE, invalidKeyByte]

/-- A low byte of group F with no instruction decodes to the invalid row (30 R109). -/
theorem decode_wordXKK_invalidF {x : Reg} {ss : Byte} (h : invalidMiscByte ss = true) :
    decode (wordXKK 0xF#4 x ss) = .invalidF x ss := by
  rw [decode_wordXKK_groupF]
  simp_all [decodeF, invalidMiscByte]

/-- Settles O1: the group of an encoding picks the decoder's branch, and the fields put in are the fields taken out. -/
theorem decodeOfEncodeIsTheInstruction : Obligations.DecodeOfEncodeIsTheInstruction := by
  intro i hwf
  cases i with
  | cls | ret => decide
  | sys => exact decode_wordNNN_sys hwf
  | jp => simp [encode, decode_group1]
  | call => simp [encode, decode_group2]
  | seImm => simp [encode, decode_group3]
  | sneImm => simp [encode, decode_group4]
  | seReg => simp [encode, decode_group5]
  | ldImm => simp [encode, decode_group6]
  | addImm => simp [encode, decode_group7]
  | ldReg | orReg | andReg | xorReg | addReg | sub | shr | subn | shl => simp [encode, decode_wordXYN_group8, decode8]
  | invalid8 => exact decode_wordXYN_invalid8 hwf
  | sneReg => simp [encode, decode_group9]
  | ldI => simp [encode, decode_groupA]
  | jpV0 => simp [encode, decode_groupB]
  | rnd => simp [encode, decode_groupC]
  | drw => simp [encode, decode_groupD]
  | skp | sknp => simp [encode, decode_wordXKK_groupE, decodeE]
  | invalidE => exact decode_wordXKK_invalidE hwf
  | ldFromDt | ldK | ldDt | ldSt | addI | ldF | ldB | stRegs | ldRegs => simp [encode, decode_wordXKK_groupF, decodeF]
  | invalidF => exact decode_wordXKK_invalidF hwf

/-! ### Encode of decode -/

/-- An instruction spells an opcode: it is well formed and its encoding is the opcode. -/
def Spells (i : Instr) (op : Word) : Prop := i.wf = true ∧ encode i = op

/-- Put together again, the fields of an opcode of a known group are the opcode. -/
theorem wordNNN_of_group {op : Word} {g : Nibble} (h : opGroup op = g) : wordNNN g (opNNN op) = op :=
  h ▸ wordNNN_fields op

theorem wordXKK_of_group {op : Word} {g : Nibble} (h : opGroup op = g) : wordXKK g (opX op) (opKK op) = op :=
  h ▸ wordXKK_fields op

theorem wordXYN_of_group {op : Word} {g : Nibble} (h : opGroup op = g) :
    wordXYN g (opX op) (opY op) (opN op) = op :=
  h ▸ wordXYN_fields op

theorem decode0_spells {op : Word} (h : opGroup op = 0x0#4) : Spells (decode0 op) op := by
  have hword : wordNNN 0x0#4 (opNNN op) = op := wordNNN_of_group h
  unfold decode0
  split
  · next hcls => exact ⟨rfl, hcls.symm⟩
  split
  · next hret => exact ⟨rfl, hret.symm⟩
  next hcls hret =>
  refine ⟨?_, hword⟩
  have hne : opNNN op ≠ 0x0E0#12 ∧ opNNN op ≠ 0x0EE#12 :=
    ⟨fun e => hcls (by rw [← hword, e]; decide), fun e => hret (by rw [← hword, e]; decide)⟩
  simp [Instr.wf, sysOperand, hne]

theorem decode8_spells {op : Word} (h : opGroup op = 0x8#4) : Spells (decode8 op) op := by
  have hword : wordXYN 0x8#4 (opX op) (opY op) (opN op) = op := wordXYN_of_group h
  rcases nibble_cases (opN op) with hn | hn | hn | hn | hn | hn | hn | hn | hn | hn | hn | hn | hn | hn | hn | hn <;>
    rw [hn] at hword <;> simp [decode8, hn, Spells, Instr.wf, invalidAluNibble, encode, hword]

theorem decodeE_spells {op : Word} (h : opGroup op = 0xE#4) : Spells (decodeE op) op := by
  have hword : wordXKK 0xE#4 (opX op) (opKK op) = op := wordXKK_of_group h
  simp only [decodeE]
  split_ifs <;> simp_all [Spells, Instr.wf, invalidKeyByte, encode]

theorem decodeF_spells {op : Word} (h : opGroup op = 0xF#4) : Spells (decodeF op) op := by
  have hword : wordXKK 0xF#4 (opX op) (opKK op) = op := wordXKK_of_group h
  simp only [decodeF]
  split_ifs <;> simp_all [Spells, Instr.wf, invalidMiscByte, encode]

/-- Settles O2: group by group, the fields the decoder takes out put together the opcode. -/
theorem encodeOfDecodeIsTheOpcode : Obligations.EncodeOfDecodeIsTheOpcode := by
  intro op
  rcases nibble_cases (opGroup op) with
    h | h | h | h | h | h | h | h | h | h | h | h | h | h | h | h
  · exact decode_group0 h ▸ decode0_spells h
  · exact decode_group1 h ▸ ⟨rfl, wordNNN_of_group h⟩
  · exact decode_group2 h ▸ ⟨rfl, wordNNN_of_group h⟩
  · exact decode_group3 h ▸ ⟨rfl, wordXKK_of_group h⟩
  · exact decode_group4 h ▸ ⟨rfl, wordXKK_of_group h⟩
  · exact decode_group5 h ▸ ⟨rfl, wordXYN_of_group h⟩
  · exact decode_group6 h ▸ ⟨rfl, wordXKK_of_group h⟩
  · exact decode_group7 h ▸ ⟨rfl, wordXKK_of_group h⟩
  · exact decode_group8 h ▸ decode8_spells h
  · exact decode_group9 h ▸ ⟨rfl, wordXYN_of_group h⟩
  · exact decode_groupA h ▸ ⟨rfl, wordNNN_of_group h⟩
  · exact decode_groupB h ▸ ⟨rfl, wordNNN_of_group h⟩
  · exact decode_groupC h ▸ ⟨rfl, wordXKK_of_group h⟩
  · exact decode_groupD h ▸ ⟨rfl, wordXYN_of_group h⟩
  · exact decode_groupE h ▸ decodeE_spells h
  · exact decode_groupF h ▸ decodeF_spells h

theorem encode_decode (op : Word) : encode (decode op) = op := (encodeOfDecodeIsTheOpcode op).2

theorem decode_wf (op : Word) : (decode op).wf = true := (encodeOfDecodeIsTheOpcode op).1

end Sys2Proof.Machine

/-! PROOFS. The opcode table: which opcodes each form of row takes, and that the decoder picks the row of the highest
priority (30 R118). -/

namespace Sys2Proof.Machine

/-! ### The opcodes a row takes, by its form -/

section

variable {j : Instr} {op : Word}

/-- Every row takes the encodings of its instruction. -/
theorem row_takes_encode (i : Instr) : i.row.takes (encode i) = true := by
  cases i with
  | cls => exact Laws.RowTakesEncoding.cls
  | ret => exact Laws.RowTakesEncoding.ret
  | sys => exact Laws.RowTakesEncoding.sys _
  | jp => exact Laws.RowTakesEncoding.jp _
  | call => exact Laws.RowTakesEncoding.call _
  | seImm => exact Laws.RowTakesEncoding.seImm _ _
  | sneImm => exact Laws.RowTakesEncoding.sneImm _ _
  | seReg => exact Laws.RowTakesEncoding.seReg _ _ _
  | ldImm => exact Laws.RowTakesEncoding.ldImm _ _
  | addImm => exact Laws.RowTakesEncoding.addImm _ _
  | ldReg => exact Laws.RowTakesEncoding.ldReg _ _
  | orReg => exact Laws.RowTakesEncoding.orReg _ _
  | andReg => exact Laws.RowTakesEncoding.andReg _ _
  | xorReg => exact Laws.RowTakesEncoding.xorReg _ _
  | addReg => exact Laws.RowTakesEncoding.addReg _ _
  | sub => exact Laws.RowTakesEncoding.sub _ _
  | shr => exact Laws.RowTakesEncoding.shr _ _
  | subn => exact Laws.RowTakesEncoding.subn _ _
  | shl => exact Laws.RowTakesEncoding.shl _ _
  | invalid8 => exact Laws.RowTakesEncoding.invalid8 _ _ _
  | sneReg => exact Laws.RowTakesEncoding.sneReg _ _ _
  | ldI => exact Laws.RowTakesEncoding.ldI _
  | jpV0 => exact Laws.RowTakesEncoding.jpV0 _
  | rnd => exact Laws.RowTakesEncoding.rnd _ _
  | drw => exact Laws.RowTakesEncoding.drw _ _ _
  | skp => exact Laws.RowTakesEncoding.skp _
  | sknp => exact Laws.RowTakesEncoding.sknp _
  | invalidE => exact Laws.RowTakesEncoding.invalidE _ _
  | ldFromDt => exact Laws.RowTakesEncoding.ldFromDt _
  | ldK => exact Laws.RowTakesEncoding.ldK _
  | ldDt => exact Laws.RowTakesEncoding.ldDt _
  | ldSt => exact Laws.RowTakesEncoding.ldSt _
  | addI => exact Laws.RowTakesEncoding.addI _
  | ldF => exact Laws.RowTakesEncoding.ldF _
  | ldB => exact Laws.RowTakesEncoding.ldB _
  | stRegs => exact Laws.RowTakesEncoding.stRegs _
  | ldRegs => exact Laws.RowTakesEncoding.ldRegs _
  | invalidF => exact Laws.RowTakesEncoding.invalidF _ _

/-- A row that fixes the whole word takes that word alone. -/
theorem eq_of_takes {r : OpcodeRow} (h : r.takes op = true) (hm : r.mask = 0xFFFF#16) : op = r.pattern := by
  simpa [OpcodeRow.takes, hm, and_mask_all] using h

/-- A row that fixes the group takes opcodes of the group alone. -/
theorem group_of_takes {r : OpcodeRow} {g : Nibble} (h : r.takes op = true) (hm : r.mask = 0xF000#16)
    (hp : r.pattern = wordNNN g 0#12) : opGroup op = g := by
  rw [OpcodeRow.takes, hm, and_mask_group, hp, beq_iff_eq] at h
  rw [← opGroup_wordNNN (opGroup op), h, opGroup_wordNNN]

/-- A row that fixes the group and the low nibble takes opcodes with both alone. -/
theorem nibble_of_takes {r : OpcodeRow} (h : r.takes op = true) (hm : r.mask = 0xF00F#16) :
    opGroup op = opGroup r.pattern ∧ opN op = opN r.pattern := by
  rw [OpcodeRow.takes, hm, and_mask_group_n, beq_iff_eq] at h
  rw [← h, opGroup_wordXYN, opN_wordXYN]
  exact ⟨rfl, rfl⟩

/-- A row that fixes the group and the low byte takes opcodes with both alone. -/
theorem byte_of_takes {r : OpcodeRow} (h : r.takes op = true) (hm : r.mask = 0xF0FF#16) :
    opGroup op = opGroup r.pattern ∧ opKK op = opKK r.pattern := by
  rw [OpcodeRow.takes, hm, and_mask_group_kk, beq_iff_eq] at h
  rw [← h, opGroup_wordXKK, opKK_wordXKK]
  exact ⟨rfl, rfl⟩

/-! ### The row the decoder picks -/

/-- The rows of a group that has a fallback row: the fallback row, or an exact row. -/
theorem row_decode0 (op : Word) :
    (decode0 op).row = (Instr.sys (opNNN op)).row ∨ (decode0 op).row.priority = 1 := by
  unfold decode0
  split_ifs <;> simp [Instr.row]

theorem row_decode8 (op : Word) :
    (decode8 op).row = (Instr.invalid8 (opX op) (opY op) (opN op)).row ∨ (decode8 op).row.priority = 1 := by
  simp only [decode8]
  split_ifs <;> simp [Instr.row]

theorem row_decodeE (op : Word) :
    (decodeE op).row = (Instr.invalidE (opX op) (opKK op)).row ∨ (decodeE op).row.priority = 1 := by
  simp only [decodeE]
  split_ifs <;> simp [Instr.row]

theorem row_decodeF (op : Word) :
    (decodeF op).row = (Instr.invalidF (opX op) (opKK op)).row ∨ (decodeF op).row.priority = 1 := by
  simp only [decodeF]
  split_ifs <;> simp [Instr.row]

/-- A row that takes an opcode is the decoded instruction's, or a fallback row where the decoded instruction's is exact. -/
theorem row_of_takes (h : j.row.takes op = true) :
    j.row = (decode op).row ∨ j.row.priority = 0 ∧ (decode op).row.priority = 1 := by
  cases j with
  | cls | ret =>
    rw [eq_of_takes h rfl]
    exact .inl rfl
  | sys =>
    rw [decode_group0 (group_of_takes h rfl rfl)]
    exact (row_decode0 op).imp Eq.symm fun hp => ⟨rfl, hp⟩
  | invalid8 =>
    rw [decode_group8 (group_of_takes h rfl rfl)]
    exact (row_decode8 op).imp Eq.symm fun hp => ⟨rfl, hp⟩
  | invalidE =>
    rw [decode_groupE (group_of_takes h rfl rfl)]
    exact (row_decodeE op).imp Eq.symm fun hp => ⟨rfl, hp⟩
  | invalidF =>
    rw [decode_groupF (group_of_takes h rfl rfl)]
    exact (row_decodeF op).imp Eq.symm fun hp => ⟨rfl, hp⟩
  | jp => exact .inl (by rw [decode_group1 (group_of_takes h rfl rfl)]; rfl)
  | call => exact .inl (by rw [decode_group2 (group_of_takes h rfl rfl)]; rfl)
  | seImm => exact .inl (by rw [decode_group3 (group_of_takes h rfl rfl)]; rfl)
  | sneImm => exact .inl (by rw [decode_group4 (group_of_takes h rfl rfl)]; rfl)
  | seReg => exact .inl (by rw [decode_group5 (group_of_takes h rfl rfl)]; rfl)
  | ldImm => exact .inl (by rw [decode_group6 (group_of_takes h rfl rfl)]; rfl)
  | addImm => exact .inl (by rw [decode_group7 (group_of_takes h rfl rfl)]; rfl)
  | sneReg => exact .inl (by rw [decode_group9 (group_of_takes h rfl rfl)]; rfl)
  | ldI => exact .inl (by rw [decode_groupA (group_of_takes h rfl rfl)]; rfl)
  | jpV0 => exact .inl (by rw [decode_groupB (group_of_takes h rfl rfl)]; rfl)
  | rnd => exact .inl (by rw [decode_groupC (group_of_takes h rfl rfl)]; rfl)
  | drw => exact .inl (by rw [decode_groupD (group_of_takes h rfl rfl)]; rfl)
  | ldReg | orReg | andReg | xorReg | addReg | sub | shr | subn | shl =>
    obtain ⟨hg, hn⟩ := nibble_of_takes h rfl
    rw [decode_group8 (hg.trans (by simp [Instr.row, opGroup]))]
    simp only [decode8, hn]
    simp [Instr.row, opN]
  | skp | sknp =>
    obtain ⟨hg, hkk⟩ := byte_of_takes h rfl
    rw [decode_groupE (hg.trans (by simp [Instr.row, opGroup]))]
    simp only [decodeE, hkk]
    simp [Instr.row, opKK]
  | ldFromDt | ldK | ldDt | ldSt | addI | ldF | ldB | stRegs | ldRegs =>
    obtain ⟨hg, hkk⟩ := byte_of_takes h rfl
    rw [decode_groupF (hg.trans (by simp [Instr.row, opGroup]))]
    simp only [decodeF, hkk]
    simp [Instr.row, opKK]

end

/-- Settles O3: the row takes the opcode as the encoding of the decoded instruction, and `row_of_takes` speaks of the
others. -/
theorem decodePicksTheTableRow : Obligations.DecodePicksTheTableRow := by
  refine fun op => ⟨?_, fun j hj => (row_of_takes hj).imp_right fun ⟨hlow, hhigh⟩ => ?_⟩
  · simpa only [encode_decode] using row_takes_encode (decode op)
  · rw [hlow, hhigh]
    exact Nat.zero_lt_one

/-- Settles O4: the vectors' words, one by one. -/
theorem specWordsDecode : Obligations.SpecWordsDecode := by
  unfold Obligations.SpecWordsDecode
  decide

end Sys2Proof.Machine

/-! PROOFS. The invalid and the reserved encodings, CALL and RET, as classes of decoded instructions
(30 R106, R112, R113). -/

namespace Sys2Proof.Machine

/-- The invalid rows (30 R112). -/
def isInvalidRow : Instr → Bool
  | .invalid8 _ _ _ | .invalidE _ _ | .invalidF _ _ => true
  | _ => false

/-- The reserved, unsupported instructions (30 R113). -/
def isReserved : Instr → Bool
  | .sys _ | .skp _ | .sknp _ | .ldK _ => true
  | _ => false

theorem invalidWord_encode {i : Instr} (hwf : i.wf = true) : invalidWord (encode i) = isInvalidRow i := by
  cases i with
  | cls | ret => decide
  | invalid8 | invalidE | invalidF =>
    simp only [Instr.wf] at hwf
    simp [invalidWord, encode, isInvalidRow, hwf]
  | _ => simp [invalidWord, encode, isInvalidRow, invalidAluNibble, invalidKeyByte, invalidMiscByte]

/-- The invalid encodings are the words that decode to the invalid rows. -/
theorem isInvalidRow_decode (op : Word) : isInvalidRow (decode op) = invalidWord op := by
  rw [← invalidWord_encode (decode_wf op), encode_decode]

theorem reservedWord_encode {i : Instr} (hwf : i.wf = true) : reservedWord (encode i) = isReserved i := by
  cases i with
  | cls | ret => decide
  | sys nnn =>
    have hdec : decode (wordNNN 0x0#4 nnn) = .sys nnn := decode_wordNNN_sys hwf
    have hcls : wordNNN 0x0#4 nnn ≠ 0x00E0#16 := fun e => by rw [e] at hdec; cases hdec
    have hret : wordNNN 0x0#4 nnn ≠ 0x00EE#16 := fun e => by rw [e] at hdec; cases hdec
    simp [reservedWord, encode, isReserved, hcls, hret]
  | invalidE | invalidF =>
    simp only [Instr.wf, invalidKeyByte, invalidMiscByte] at hwf
    simp_all [reservedWord, encode, isReserved]
  | _ => simp [reservedWord, encode, isReserved]

/-- The reserved encodings are the words that decode to the reserved instructions. -/
theorem isReserved_decode (op : Word) : isReserved (decode op) = reservedWord op := by
  rw [← reservedWord_encode (decode_wf op), encode_decode]

/-- The words of CALL are those of group 2. -/
theorem isCall_decode (op : Word) : (decode op).isCall = true ↔ opGroup op = 0x2#4 := by
  constructor
  · intro h
    cases hi : decode op with
    | call nnn => rw [← encode_decode op, hi, encode, opGroup_wordNNN]
    | _ => simp [hi, Instr.isCall] at h
  · intro h
    rw [decode_group2 h]
    rfl

/-- The word of RET is 00EE alone. -/
theorem decode_eq_ret {op : Word} : decode op = .ret ↔ op = 0x00EE#16 := by
  constructor
  · intro h
    rw [← encode_decode op, h]
    rfl
  · rintro rfl
    decide

/-- An opcode decodes to an invalid row exactly with its own fields as the row's operands. -/
theorem isInvalidRow_decode_iff (op : Word) :
    isInvalidRow (decode op) = true ↔ decode op = .invalid8 (opX op) (opY op) (opN op) ∨
      decode op = .invalidE (opX op) (opKK op) ∨ decode op = .invalidF (opX op) (opKK op) := by
  have hop := encode_decode op
  constructor
  · intro h
    cases hi : decode op with
    | invalid8 | invalidE | invalidF =>
      rw [hi] at hop
      simp [← hop, encode]
    | _ => simp [hi, isInvalidRow] at h
  · rintro (h | h | h) <;> simp [h, isInvalidRow]

end Sys2Proof.Machine

/-! PROOFS. The rules over all instructions: what the configuration changes, and which part of the state each of them leaves
as it was (10 R33 to R54; 20 R72; 60 R308). -/

namespace Sys2Proof.Machine

/-! ### Instructions under a configuration -/

/-- An instruction that names no quirk does the same under every configuration (10 R52). -/
theorem execWith_of_not_readsQuirks {i : Instr} (q : Quirks) (s : State) (hi : i.readsQuirks = false) :
    execWith q i s = exec i s := by
  cases i with
  | shr | shl | jpV0 | stRegs | ldRegs => cases hi
  | _ => rfl

/-- No instruction refuses, under any configuration. -/
theorem execWith_ne_refused (q : Quirks) (i : Instr) (s : State) (r : Refusal) : execWith q i s ≠ .refused r := by
  cases i with
  | shr | shl | jpV0 => exact nofun
  | stRegs x => cases hstore : s.storeAtI (firstRegisters x s) <;> simp [execWith, storeRegisters, hstore]
  | ldRegs x =>
    cases hread : s.mem.readRange s.i.toNat (transferCount x) <;> simp [execWith, loadRegisters, hread]
  | _ =>
    rw [execWith_of_not_readsQuirks]
    · exact exec_ne_refused _ s r
    · rfl

section

variable {q : Quirks} {i : Instr} {s t : State}

/-- What every instruction does to the record, under any configuration. -/
theorem execWith_recordEffect (h : execWith q i s = .next t) : RecordEffect i s t := by
  cases i with
  | shr | shl | jpV0 =>
    cases h
    exact .of_kept rfl rfl rfl
  | stRegs =>
    obtain ⟨u, hstore, rfl⟩ := storeRegisters_eq_next.1 h
    exact .of_kept rfl rfl ((advanceIndex_result _ _ u).trans (State.storeAtI_result hstore))
  | ldRegs =>
    obtain ⟨bs, -, rfl⟩ := loadRegisters_eq_next.1 h
    exact .of_kept rfl rfl (by simp)
  | _ =>
    rw [execWith_of_not_readsQuirks] at h
    · exact exec_recordEffect h
    · rfl

/-! ### The parts an instruction leaves as they were -/

/-- What an instruction leaves as it was, beside the register file and the record: each part but for the instructions that
may write it, and always the font and the stopping bits. -/
structure Frame (i : Instr) (s t : State) : Prop where
  index : i.mayWriteI = false → t.i = s.i
  pc : i.mayWritePc = false → t.pc = s.pc
  dt : i.isLdDt = false → t.dt = s.dt
  st : i.isLdSt = false → t.st = s.st
  stack : i.mayWriteStack = false → t.stack = s.stack
  disp : i.mayWriteDisp = false → t.disp = s.disp
  mem : i.mayWriteMem = false → t.mem = s.mem
  activeFont : t.activeFont = s.activeFont
  haltedFetch : t.haltedFetch = s.haltedFetch
  fault : t.fault = s.fault

/-- Every instruction, by the operation it writes with. -/
theorem execWith_frame (h : execWith q i s = .next t) : Frame i s t := by
  cases i with
  | ret =>
    obtain ⟨w, u, hpop, rfl⟩ | ⟨-, rfl⟩ := execRet_eq_next.1 h
    · obtain ⟨ws, -, rfl⟩ := State.pop_eq_some.1 hpop
      constructor <;> simp [Instr.mayWritePc, Instr.mayWriteStack]
    · constructor <;> simp
  | call =>
    obtain ⟨u, hpush, rfl⟩ | ⟨-, rfl⟩ := execCall_eq_next.1 h
    · obtain ⟨-, rfl⟩ := State.push_eq_some.1 hpush
      constructor <;> simp [Instr.mayWritePc, Instr.mayWriteStack]
    · constructor <;> simp
  | drw =>
    obtain ⟨rows, -, rfl⟩ := execDrw_eq_next.1 h
    constructor <;> simp [Instr.mayWriteDisp]
  | ldB =>
    obtain ⟨-, rfl⟩ := State.storeAtI_eq_some.1 (execLdB_eq_next.1 h)
    constructor <;> simp [Instr.mayWriteMem]
  | stRegs =>
    obtain ⟨u, hstore, rfl⟩ := storeRegisters_eq_next.1 h
    obtain ⟨-, rfl⟩ := State.storeAtI_eq_some.1 hstore
    rw [advanceIndex_eq]
    constructor <;> simp [Instr.mayWriteI, Instr.mayWriteMem]
  | ldRegs =>
    obtain ⟨bs, -, rfl⟩ := loadRegisters_eq_next.1 h
    rw [advanceIndex_eq, loadRegistersFrom_eq]
    constructor <;> simp [Instr.mayWriteI]
  | seImm | sneImm | seReg | sneReg =>
    cases h
    rw [State.skipIf_eq]
    constructor <;> simp [Instr.mayWritePc]
  | jp | jpV0 | ldI | addI | ldF | ldDt | ldSt | cls =>
    cases h
    constructor <;> simp [Instr.mayWritePc, Instr.mayWriteI, Instr.isLdDt, Instr.isLdSt, Instr.mayWriteDisp]
  | sys | ldImm | addImm | ldReg | orReg | andReg | xorReg | addReg | sub | shr | subn | shl | rnd | ldFromDt | skp | sknp
  | ldK | invalid8 | invalidE | invalidF =>
    cases h
    constructor <;> simp

theorem exec_frame (h : exec i s = .next t) : Frame i s t :=
  execWith_frame (q := Config.quirks) (by rwa [execWith_run])

end

/-- Settles O56: the register file by `exec_registerEffect`, the other parts by `exec_frame`. -/
theorem onlyNamedInstructionsWrite : Obligations.OnlyNamedInstructionsWrite := by
  intro i s t h
  obtain ⟨hi, hpc, hdt, hst, hstack, hdisp, hmem, hfont, hhalted, hfault⟩ := exec_frame h
  exact ⟨(exec_registerEffect h).kept, hi, hpc, hdt, hst, hstack, hdisp, hmem, hfont, hhalted, hfault⟩

/-! ### The refused configuration and the engine of any other -/

/-- An engine runs its transactions under its own configuration and keeps it (10 R53). -/
theorem Engine.run_eq (trs : List Transaction) (e : Engine) :
    Engine.run trs e = { quirks := e.quirks, state := runTransactions e.quirks trs e.state } := by
  induction trs generalizing e with
  | nil => rfl
  | cons tr trs ih => exact ih _

/-- A step refuses only under the refused configuration, when its instructions do not refuse. -/
theorem stepBy_ne_refused {q : Quirks} {x : Instr → State → StepOutcome} (hq : q.subLegacy = false)
    (hx : ∀ i s r, x i s ≠ .refused r) (s : State) (r : Refusal) : stepBy q x s ≠ .refused r := by
  cases hf : s.fault with
  | true => simp [stepBy_of_fault hq hf]
  | false =>
    cases hh : s.haltedFetch with
    | true => simp [stepBy_of_halted hq hf hh]
    | false =>
      cases he : s.fetch with
      | none => simp [stepBy_of_fetch_none hq hf hh he]
      | some op => exact stepBy_of_fetch hq hf hh he ▸ hx _ _ _

/-- Settles O48: construction and `stepBy` test the refused setting first, and no instruction refuses. -/
theorem subLegacyIsRefused : Obligations.SubLegacyIsRefused := by
  refine ⟨fun q hq => ⟨by simp [construct, hq], fun s => ?_⟩, fun q hq => ⟨by simp [construct, hq], ?_⟩,
    Engine.run_eq,
    fun q i s hi => execWith_of_not_readsQuirks q s hi, fun i s => by rw [execWith_run], fun s => ⟨?_, ?_⟩⟩
  · have hstep : stepWith q s = .refused .quirkSubLegacy := stepBy_of_refused hq
    exact ⟨hstep, by rw [transact, stepTransaction, hstep]⟩
  · exact stepBy_ne_refused hq (execWith_ne_refused q)
  · rw [stepWith, execWith_run, step]
  · exact stepBy_ne_refused rfl exec_ne_refused s

end Sys2Proof.Machine

/-! PROOFS. The step: its cases, the pc and the stopping bits after it, and the model fault (40 R131 to R144; 60 R307). -/

namespace Sys2Proof.Machine

theorem State.beginCycle_onlyChanges (s : State) (op : Word) : OnlyChanges [.pc, .result] s (s.beginCycle op) := by
  intro p hp
  cases p with
  | pc | result => simp at hp
  | _ => simp [Part.Same]

/-- Settles O6: the cases of `stepBy` for an enabled engine whose fetch succeeds. -/
theorem stepRunsTheDecodedInstruction : Obligations.StepRunsTheDecodedInstruction := by
  rintro s op ⟨hfault, hhalted⟩ hfetch
  exact ⟨step_of_fetch hfault hhalted hfetch, fun q hq => stepBy_of_fetch hq hfault hhalted hfetch, rfl, rfl,
    s.beginCycle_onlyChanges op⟩

/-- Settles O8: `stepBy` stops on either bit before it fetches. -/
theorem noStepWhileHaltedOrFaulted : Obligations.NoStepWhileHaltedOrFaulted := by
  intro s
  refine ⟨fun hfault => ⟨step_of_fault hfault, fun q hq => ?_⟩,
    fun hfault hhalted => ⟨step_of_halted hfault hhalted, fun q hq => ?_⟩⟩
  · rw [transact, stepTransaction, stepWith, stepBy_of_fault hq hfault]
  · rw [transact, stepTransaction, stepWith, stepBy_of_halted hq hfault hhalted]

theorem State.modelFaulted_onlyChanges (s : State) : OnlyChanges [.pc, .fault] s s.modelFaulted := by
  intro p hp
  cases p with
  | pc | fault => simp at hp
  | _ => simp [Part.Same]

/-- Settles O14: the transaction of a model fault leaves `State.modelFaulted`. -/
theorem modelFaultWritesNothing : Obligations.ModelFaultWritesNothing := fun q s _ hstep =>
  ⟨s.modelFaulted, by rw [transact, stepTransaction, hstep], rfl, rfl, s.modelFaulted_onlyChanges⟩

/-- A failing step has advanced the pc, recorded its opcode and written nothing else. -/
theorem exec_beginCycle_failure {i : Instr} {s t : State} {op : Word} (h : exec i (s.beginCycle op) = .next t)
    (hfail : t.result.status ≠ .success) :
    t.pc = s.pc + 2#16 ∧ t.result.opcode = op ∧ OnlyChanges [.pc, .result] s t := by
  cases exec_recordEffect h with
  | completes hresult => exact absurd (by rw [hresult]; rfl) hfail
  | fails f _ _ _ ht =>
    subst ht
    exact ⟨rfl, rfl, ((s.beginCycle_onlyChanges op).trans (State.failWith_onlyChanges _ f)).mono (by decide)⟩

/-- Settles O12: after the advance of the fetch the pc is kept, by `exec_frame` or by the failure. -/
theorem everyStepAdvancesThePc : Obligations.EveryStepAdvancesThePc := by
  rintro s t op ⟨hfault, hhalted⟩ hfetch hstep
  rw [step_of_fetch hfault hhalted hfetch] at hstep
  exact ⟨(exec_frame hstep).pc, fun hfail => (exec_beginCycle_failure hstep hfail).1⟩

/-- Settles O13: the fetch succeeds, and no instruction writes the stopping bits. -/
theorem engineStaysEnabledAfterAStep : Obligations.EngineStaysEnabledAfterAStep := by
  rintro s t ⟨hfault, hhalted⟩ hpc hstep
  obtain ⟨-, -, ⟨hnone, -⟩ | ⟨op, -, hexec⟩⟩ := step_cases hstep
  · have : 4095 ≤ s.pc.toNat := State.fetch_eq_none.1 hnone
    omega
  · exact ⟨(exec_frame hexec).fault.trans hfault, (exec_frame hexec).haltedFetch.trans hhalted⟩

end Sys2Proof.Machine

/-! PROOFS. The status of a step, and the rows that fail in every state (30 R112; 41 R152; 45 R283 to R285; 60
R301 to R304). -/

namespace Sys2Proof.Machine

/-- The status an instruction ends with, one that completes keeping the status it started with (60 R301 to R304). -/
def endStatus (i : Instr) (s : State) : Status :=
  match i with
  | .invalid8 _ _ _ | .invalidE _ _ | .invalidF _ _ => .instructionInvalid
  | .sys _ | .skp _ | .sknp _ | .ldK _ => .instructionNotImplemented
  | .call _ => if s.stack.length < stackDepth then s.result.status else .stackFull
  | .ret => if s.stack = [] then .stackEmpty else s.result.status
  | _ => s.result.status

theorem exec_status {i : Instr} {s t : State} (h : exec i s = .next t) : t.result.status = endStatus i s := by
  cases i with
  | ret =>
    obtain ⟨w, u, hpop, rfl⟩ | ⟨hempty, rfl⟩ := execRet_eq_next.1 h
    · have hne : s.stack ≠ [] := fun e => by simp [State.pop_eq_none.2 e] at hpop
      rw [endStatus, if_neg hne, State.setPc_result, State.pop_result hpop]
    · rw [endStatus, if_pos (State.pop_eq_none.1 hempty)]
      rfl
  | call =>
    obtain ⟨u, hpush, rfl⟩ | ⟨hfull, rfl⟩ := execCall_eq_next.1 h
    · rw [endStatus, if_pos (State.push_eq_some.1 hpush).1, State.setPc_result, State.push_result hpush]
    · rw [endStatus, if_neg (State.push_eq_none.1 hfull).not_gt]
      rfl
  | drw =>
    obtain ⟨rows, -, rfl⟩ := execDrw_eq_next.1 h
    rfl
  | ldB => exact congrArg StepResult.status (State.storeAtI_result (execLdB_eq_next.1 h))
  | stRegs =>
    obtain ⟨u, hstore, rfl⟩ := storeRegisters_eq_next.1 h
    exact congrArg StepResult.status ((advanceIndex_result _ _ u).trans (State.storeAtI_result hstore))
  | ldRegs =>
    obtain ⟨bs, -, rfl⟩ := loadRegisters_eq_next.1 h
    exact congrArg StepResult.status ((advanceIndex_result _ _ _).trans (loadRegistersFrom_result _ bs s))
  | seImm | sneImm | seReg | sneReg =>
    cases h
    exact congrArg StepResult.status (State.skipIf_result s _)
  | _ =>
    cases h
    rfl

section

variable {i : Instr} {s : State} (hs : s.result.status = .success)
include hs

theorem endStatus_eq_invalid : endStatus i s = .instructionInvalid ↔ isInvalidRow i = true := by
  cases i with
  | call | ret => simp only [endStatus, isInvalidRow]; split <;> simp [hs]
  | _ => simp [endStatus, isInvalidRow, hs]

theorem endStatus_eq_notImplemented : endStatus i s = .instructionNotImplemented ↔ isReserved i = true := by
  cases i with
  | call | ret => simp only [endStatus, isReserved]; split <;> simp [hs]
  | _ => simp [endStatus, isReserved, hs]

theorem endStatus_eq_stackFull : endStatus i s = .stackFull ↔ i.isCall = true ∧ stackDepth ≤ s.stack.length := by
  cases i with
  | call =>
    rcases lt_or_ge s.stack.length 16 with h | h
    · simp [endStatus, Instr.isCall, hs, h, h.not_ge]
    · simp [endStatus, Instr.isCall, h, h.not_gt]
  | ret => by_cases h : s.stack = [] <;> simp [endStatus, Instr.isCall, hs, h]
  | _ => simp [endStatus, Instr.isCall, hs]

theorem endStatus_eq_stackEmpty : endStatus i s = .stackEmpty ↔ i = .ret ∧ s.stack = [] := by
  cases i with
  | call => by_cases h : s.stack.length < 16 <;> simp [endStatus, hs, h]
  | ret => by_cases h : s.stack = [] <;> simp [endStatus, hs, h]
  | _ => simp [endStatus, hs]

theorem endStatus_ne_fetchFailed : endStatus i s ≠ .fetchFailed := by
  cases i with
  | call | ret => simp only [endStatus]; split <;> simp [hs]
  | _ => simp [endStatus, hs]

end

/-- Settles O10: the status is `endStatus` of the decoded instruction, whose classes are those of its opcode. -/
theorem statusOfAStep : Obligations.StatusOfAStep := by
  rintro s t op ⟨hfault, hhalted⟩ hdepth hfetch hstep
  rw [step_of_fetch hfault hhalted hfetch] at hstep
  have hstart : (s.beginCycle op).result.status = .success := rfl
  have hfull : stackDepth ≤ s.stack.length ↔ s.stack.length = 16 := ⟨fun h => le_antisymm hdepth h, fun h => h.ge⟩
  refine ⟨?_, ?_, ?_, ?_, ?_, exec_beginCycle_failure hstep⟩ <;> rw [exec_status hstep]
  · rw [endStatus_eq_invalid hstart, isInvalidRow_decode]
  · rw [endStatus_eq_notImplemented hstart, isReserved_decode]
  · rw [endStatus_eq_stackFull hstart, isCall_decode, State.beginCycle_stack, hfull]
  · rw [endStatus_eq_stackEmpty hstart, decode_eq_ret, State.beginCycle_stack]
  · exact endStatus_ne_fetchFailed hstart

/-! ### The rows that report a failure whatever the state -/

/-- A failure keeps the opcode and clears both flags, and nothing but the record changes (40 R138). -/
theorem exec_failWith {i : Instr} {s : State} {f : Status} (h : exec i s = .next (s.failWith f)) :
    ∃ t : State, exec i s = .next t ∧ t.result.status = f ∧ t.result.opcode = s.result.opcode ∧
      t.result.displayMutated = false ∧ t.result.soundWritten = false ∧ OnlyChanges [.result] s t :=
  ⟨_, h, rfl, rfl, rfl, rfl, s.failWith_onlyChanges f⟩

/-- Settles O15: the words decode by group, and each instruction is a failure. -/
theorem reservedRowsReportNotImplemented : Obligations.ReservedRowsReportNotImplemented := by
  refine ⟨fun nnn hcls hret => decode_wordNNN_sys (by simp [sysOperand, hcls, hret]), fun x => ?_, ?_⟩
  · simp [decode_wordXKK_groupE, decode_wordXKK_groupF, decodeE, decodeF]
  · intro nnn x s i hi
    fin_cases hi <;> exact exec_failWith rfl

/-- Settles O16: the invalid words are those that decode to an invalid row, and each row is a failure. -/
theorem invalidRowsReportInvalid : Obligations.InvalidRowsReportInvalid := by
  refine ⟨fun op => ?_, ?_⟩
  · rw [← isInvalidRow_decode, isInvalidRow_decode_iff]
  · intro x y n ss s i hi
    fin_cases hi <;> exact exec_failWith rfl

end Sys2Proof.Machine

/-! PROOFS. The invariants: what a step can leave, what an instruction and a load keep of each clause, and the induction over
sequences of transactions (10 R37, R42, R44, R51, R57; 20 R70, R84; 60 R321). -/

namespace Sys2Proof.Machine

/-! ### What a step can leave -/

/-- The state a step transaction leaves: the old one when no step is enabled; else that of a failed fetch, of the decoded
instruction, or of its model fault (40 R131 to R143). -/
inductive StepLeaves (q : Quirks) (s : State) : State → Prop
  | stays : StepLeaves q s s
  | fetchFails (hen : s.Enabled) (hfetch : s.fetch = none) : StepLeaves q s s.fetchFailed
  | executes {op : Word} {t : State} (hen : s.Enabled) (hfetch : s.fetch = some op)
      (hexec : execWith q (decode op) (s.beginCycle op) = .next t) : StepLeaves q s t
  | faults {op : Word} (hen : s.Enabled) (hfetch : s.fetch = some op) : StepLeaves q s s.modelFaulted

/-- The model fault comes from an instruction that was fetched. -/
theorem stepBy_modelFault {q : Quirks} {x : Instr → State → StepOutcome} {s : State}
    (h : stepBy q x s = .fault .memoryOutOfRange) : s.Enabled ∧ ∃ op, s.fetch = some op := by
  cases hq : q.subLegacy with
  | true => simp [stepBy_of_refused hq] at h
  | false =>
    cases hf : s.fault with
    | true => simp [stepBy_of_fault hq hf] at h
    | false =>
      cases hh : s.haltedFetch with
      | true => simp [stepBy_of_halted hq hf hh] at h
      | false =>
        cases he : s.fetch with
        | none => simp [stepBy_of_fetch_none hq hf hh he] at h
        | some op => exact ⟨⟨hf, hh⟩, op, rfl⟩

section

variable {q : Quirks} {s t : State}

theorem stepWith_leaves (h : stepWith q s = .next t) : StepLeaves q s t := by
  obtain ⟨-, hf, hh, ⟨hnone, rfl⟩ | ⟨op, hfetch, hexec⟩⟩ := stepBy_cases h
  · exact .fetchFails ⟨hf, hh⟩ hnone
  · exact .executes ⟨hf, hh⟩ hfetch hexec

theorem stepTransaction_leaves (q : Quirks) (s : State) : StepLeaves q s (stepTransaction q s).1 := by
  unfold stepTransaction
  split
  · next hstep => exact stepWith_leaves hstep
  · next hstep =>
    obtain ⟨hen, op, hfetch⟩ := stepBy_modelFault hstep
    exact .faults hen hfetch
  · exact .stays
  · exact .stays
  · exact .stays

/-! ### The induction over transactions -/

/-- What steps, ticks and loads keep, every sequence of transactions keeps; a display read changes nothing. -/
theorem runTransactions_keeps {P : State → Prop} (hstep : ∀ s t, StepLeaves q s t → P s → P t)
    (htick : ∀ s, P s → P s.tick) (hprogram : ∀ s buf reapply, P s → P (s.loadProgram buf reapply).1)
    (hfont : ∀ s id, P s → P (s.loadFont id).1) (trs : List Transaction) (s : State) (hs : P s) :
    P (runTransactions q trs s) := by
  induction trs generalizing s with
  | nil => exact hs
  | cons tr trs ih =>
    refine ih _ ?_
    cases tr with
    | step => exact hstep _ _ (stepTransaction_leaves q s) hs
    | tick => exact htick s hs
    | loadProgram buf reapply => exact hprogram s buf reapply hs
    | loadFont id => exact hfont s id hs
    | readDisplay => exact hs

/-! ### Memory, the stack and the pc across an instruction -/

variable {i : Instr}

/-- Every instruction keeps memory in canonical form: only stores write it. -/
theorem execWith_wf (h : execWith q i s = .next t) (hwf : s.mem.wf = true) : t.mem.wf = true := by
  cases hi : i.mayWriteMem with
  | false => rwa [(execWith_frame h).mem hi]
  | true =>
    cases i with
    | ldB =>
      obtain ⟨hfit, rfl⟩ := State.storeAtI_eq_some.1 (execLdB_eq_next.1 h)
      exact Memory.wf_writeAll hwf hfit
    | stRegs =>
      obtain ⟨u, hstore, rfl⟩ := storeRegisters_eq_next.1 h
      obtain ⟨hfit, rfl⟩ := State.storeAtI_eq_some.1 hstore
      rw [advanceIndex_eq]
      exact Memory.wf_writeAll hwf hfit
    | _ => cases hi

/-- What an instruction may do to the return stack (10 R43): CALL pushes its pc on fewer than 16 entries, RET pops into the
pc, and every other instruction, and a failing CALL or RET, keeps it. -/
inductive StackEffect (s t : State) : Prop
  | kept (h : t.stack = s.stack)
  | pushed (hroom : s.stack.length < stackDepth) (h : t.stack = s.stack ++ [s.pc])
  | popped (h : s.stack = t.stack ++ [t.pc])

theorem execWith_stackEffect (h : execWith q i s = .next t) : StackEffect s t := by
  cases hi : i.mayWriteStack with
  | false => exact .kept ((execWith_frame h).stack hi)
  | true =>
    cases i with
    | call =>
      obtain ⟨u, hpush, rfl⟩ | ⟨-, rfl⟩ := execCall_eq_next.1 h
      · obtain ⟨hroom, rfl⟩ := State.push_eq_some.1 hpush
        exact .pushed hroom rfl
      · exact .kept rfl
    | ret =>
      obtain ⟨w, u, hpop, rfl⟩ | ⟨-, rfl⟩ := execRet_eq_next.1 h
      · obtain ⟨ws, hstack, rfl⟩ := State.pop_eq_some.1 hpop
        exact .popped hstack
      · exact .kept rfl
    | _ => cases hi

/-- No instruction stacks more than 16 entries. -/
theorem execWith_stack_length (h : execWith q i s = .next t) (hs : s.stack.length ≤ stackDepth) :
    t.stack.length ≤ stackDepth := by
  cases execWith_stackEffect h with
  | kept ht => rwa [ht]
  | pushed hroom ht => rw [ht, List.length_append]; exact hroom
  | popped ht =>
    rw [ht, List.length_append] at hs
    exact (Nat.le_add_right _ _).trans hs

/-- Where the pc was in memory, every return address stays at most 0x1000. -/
theorem execWith_stack_le (h : execWith q i s = .next t) (hpc : s.pc.toNat ≤ 0x1000)
    (hs : ∀ w ∈ s.stack, w.toNat ≤ 0x1000) : ∀ w ∈ t.stack, w.toNat ≤ 0x1000 := by
  intro w hw
  cases execWith_stackEffect h with
  | kept ht => exact hs w (ht ▸ hw)
  | pushed hroom ht =>
    rw [ht, List.mem_append, List.mem_singleton] at hw
    exact hw.elim (hs w) fun e => e ▸ hpc
  | popped ht => exact hs w (ht ▸ List.mem_append_left _ hw)

/-- The pc 2 further, mod 2^16. -/
theorem toNat_add_two (w : Word) : (w + 2#16).toNat = (w.toNat + 2) % 65536 := BitVec.toNat_add _ _

/-- A skip goes no further than 2. -/
theorem State.skipIf_pc_le {c : Bool} (hpc : s.pc.toNat ≤ 0x1000) : (s.skipIf c).pc.toNat ≤ 0x1002 := by
  have hskip := toNat_add_two s.pc
  rw [State.skipIf_eq, State.setPc_pc]
  split <;> omega

/-- Where the pc and the return addresses were in memory, no instruction moves the pc beyond 0x10FE (10 R37). -/
theorem execWith_pc_le (h : execWith q i s = .next t) (hpc : s.pc.toNat ≤ 0x1000)
    (hs : ∀ w ∈ s.stack, w.toNat ≤ 0x1000) : t.pc.toNat ≤ 0x10FE := by
  have hkept : s.pc.toNat ≤ 0x10FE := hpc.trans (by decide)
  have haddr : ∀ nnn : Addr, (zextAddr nnn).toNat ≤ 0x10FE := fun nnn => by
    rw [zextAddr_toNat]
    exact nnn.isLt.le.trans (by decide)
  cases hi : i.mayWritePc with
  | false => rwa [(execWith_frame h).pc hi]
  | true =>
    cases i with
    | ret =>
      obtain ⟨w, u, hpop, rfl⟩ | ⟨-, rfl⟩ := execRet_eq_next.1 h
      · obtain ⟨ws, hstack, rfl⟩ := State.pop_eq_some.1 hpop
        exact (hs w (by simp [hstack])).trans (by decide)
      · exact hkept
    | jp nnn =>
      cases h
      exact haddr nnn
    | call nnn =>
      obtain ⟨u, -, rfl⟩ | ⟨-, rfl⟩ := execCall_eq_next.1 h
      · exact haddr nnn
      · exact hkept
    | seImm | sneImm | seReg | sneReg =>
      cases h
      exact (State.skipIf_pc_le hpc).trans (by decide)
    | jpV0 nnn =>
      cases h
      exact jumpTarget_le _ nnn s
    | _ => cases hi

/-! ### The first invariant -/

/-- Every step keeps the invariant, clause by clause. -/
theorem StepLeaves.inv (h : StepLeaves q s t) (hs : s.Inv) : t.Inv := by
  obtain ⟨hwf, hdepth, hbits, hflags⟩ := hs
  cases h with
  | stays => exact ⟨hwf, hdepth, hbits, hflags⟩
  | fetchFails hen hfetch => exact ⟨hwf, hdepth, by simp [hen.1], fun _ => ⟨rfl, rfl⟩⟩
  | faults hen hfetch => exact ⟨hwf, hdepth, by simp [hen.2], hflags⟩
  | @executes op _ hen hfetch hexec =>
    refine ⟨execWith_wf hexec hwf, execWith_stack_length hexec hdepth, ?_, fun hfail => ?_⟩
    · rw [(execWith_frame hexec).haltedFetch, (execWith_frame hexec).fault]
      exact hbits
    · cases execWith_recordEffect hexec with
      | completes hresult => exact absurd (by rw [hresult]; rfl) hfail
      | fails f _ _ _ ht => exact ht ▸ ⟨rfl, rfl⟩

theorem loadProgram_inv (buf : List Byte) (reapply : Bool) (hs : s.Inv) : (s.loadProgram buf reapply).1.Inv := by
  unfold State.loadProgram
  split
  · next hfit =>
    obtain ⟨-, -, -, hflags⟩ := hs
    exact ⟨wf_loadedMemory hfit, Nat.zero_le _, rfl, hflags⟩
  · exact hs

theorem loadFont_inv (id : FontId) (hs : s.Inv) : (s.loadFont id).1.Inv := by
  obtain ⟨hwf, hrest⟩ := hs
  unfold State.loadFont State.loadFontAnswer
  split
  · next bs hbs => exact ⟨wf_writeFont hwf (acceptedFont_eq_some.1 hbs).2.2, hrest⟩
  · exact ⟨hwf, hrest⟩

/-! ### The bounds of the pc -/

/-- After a fetch the pc is at most 0x1000: both bytes of the opcode were in memory. -/
theorem State.advanced_pc_le {op : Word} (hfetch : s.fetch = some op) : (s.pc + 2#16).toNat ≤ 0x1000 := by
  have hpc : ¬4095 ≤ s.pc.toNat := fun h => by simp [State.fetch_eq_none.2 h] at hfetch
  rw [toNat_add_two]
  omega

/-- Every step keeps the bounds: a failed fetch advances a pc of at most 0x10FE, a fetched instruction one in memory. -/
theorem StepLeaves.pcBound (h : StepLeaves q s t) (hs : s.PcBound) : t.PcBound := by
  obtain ⟨hpc, hrun, hstack⟩ := hs
  cases h with
  | stays => exact ⟨hpc, hrun, hstack⟩
  | fetchFails hen hfetch =>
    have hle : s.pc.toNat ≤ 0x10FE := hrun hen.2
    refine ⟨?_, nofun, hstack⟩
    rw [State.fetchFailed_pc, toNat_add_two]
    omega
  | faults hen hfetch =>
    have hle : (s.pc + 2#16).toNat ≤ 0x1000 := State.advanced_pc_le hfetch
    exact ⟨hle.trans (by decide), fun _ => hle.trans (by decide), hstack⟩
  | @executes op _ hen hfetch hexec =>
    have hle : (s.beginCycle op).pc.toNat ≤ 0x1000 := State.advanced_pc_le hfetch
    have hpc' : t.pc.toNat ≤ 0x10FE := execWith_pc_le hexec hle hstack
    exact ⟨hpc'.trans (by decide), fun _ => hpc', execWith_stack_le hexec hle hstack⟩

theorem loadProgram_pcBound (buf : List Byte) (reapply : Bool) (hs : s.PcBound) :
    (s.loadProgram buf reapply).1.PcBound := by
  have horigin : progOrigin.toNat ≤ 0x10FE := by decide
  unfold State.loadProgram
  split
  · exact ⟨horigin.trans (by decide), fun _ => horigin, nofun⟩
  · exact hs

theorem loadFont_pcBound (id : FontId) (hs : s.PcBound) : (s.loadFont id).1.PcBound := by
  unfold State.loadFont State.loadFontAnswer
  split <;> exact hs

end

/-! ### The obligations -/

/-- Settles O52: a step that answers a next state is one of the cases of `StepLeaves`. -/
theorem stepKeepsInv : Obligations.StepKeepsInv := fun s t hs hstep =>
  (stepWith_leaves (q := Config.quirks) (by rw [stepWith, execWith_run, ← hstep, step])).inv hs

/-- Settles O53: steps, ticks and loads each keep the invariant. -/
theorem transactionsKeepInv : Obligations.TransactionsKeepInv := fun _ =>
  runTransactions_keeps (P := State.Inv) (fun _ _ h => h.inv) (fun _ hs => hs)
    (fun _ buf reapply => loadProgram_inv buf reapply) fun _ id => loadFont_inv id

/-- Settles O54: steps, ticks and loads each keep the bounds. -/
theorem transactionsKeepPcBound : Obligations.TransactionsKeepPcBound := fun _ =>
  runTransactions_keeps (P := State.PcBound) (fun _ _ h => h.pcBound) (fun _ hs => hs)
    (fun _ buf reapply => loadProgram_pcBound buf reapply) fun _ id => loadFont_pcBound id

/-- Settles O55: memory and the stack are empty, the pc is 0x200 and the record is a success. -/
theorem resetMeetsTheInvariants : Obligations.ResetMeetsTheInvariants :=
  ⟨⟨rfl, Nat.zero_le _, rfl, fun h => absurd rfl h⟩, by decide, fun _ => by decide, nofun⟩

end Sys2Proof.Machine

/-! PROOFS. The halt loop and the return (41 R153, R154, R161; 70 R367). -/

namespace Sys2Proof.Machine

/-- A pc whose opcode is in memory is an address of 12 bits. -/
theorem State.zextAddr_pc {s : State} {op : Word} (hfetch : s.fetch = some op) :
    zextAddr (s.pc.setWidth 12) = s.pc := by
  have hpc : ¬4095 ≤ s.pc.toNat := fun h => by simp [State.fetch_eq_none.2 h] at hfetch
  apply BitVec.eq_of_toNat_eq
  rw [zextAddr_toNat, BitVec.toNat_setWidth]
  omega

theorem State.atHaltLoop_iff {s : State} :
    s.atHaltLoop = true ↔ s.fetch = some (wordNNN 0x1#4 (s.pc.setWidth 12)) := by
  unfold State.atHaltLoop
  cases s.fetch <;> simp

/-- Settles O18: the step is a JP to the pc, so pc and memory, and with them the loop, are as before. -/
theorem haltLoopStaysPut : Obligations.HaltLoopStaysPut := by
  rintro s ⟨hfault, hhalted⟩ hloop
  have hfetch := State.atHaltLoop_iff.1 hloop
  obtain ⟨hdec, t, hexec, hpc, hframe⟩ := jpJumps (s.pc.setWidth 12) (s.beginCycle (wordNNN 0x1#4 (s.pc.setWidth 12)))
  have hpc : t.pc = s.pc := hpc.trans (State.zextAddr_pc hfetch)
  have hmem : t.mem = s.mem := (exec_frame hexec).mem rfl
  refine ⟨t, ?_, ?_, fun p hp => ?_, ?_⟩
  · rw [step_of_fetch hfault hhalted hfetch, hdec, hexec]
  · rw [exec_status hexec]
    rfl
  · by_cases hp' : p = .pc
    · exact hp' ▸ hpc
    · exact ((s.beginCycle_onlyChanges _).trans hframe) p (by simpa [hp'] using hp)
  · rw [State.atHaltLoop_iff, State.fetch_eq, hpc, hmem, ← State.fetch_eq, hfetch]

theorem State.pop_onlyChanges {s t : State} {w : Word} (h : s.pop = some (w, t)) : OnlyChanges [.stack] s t := by
  obtain ⟨ws, -, rfl⟩ := State.pop_eq_some.1 h
  intro p hp
  cases p with
  | stack => simp at hp
  | _ => simp [Part.Same, State.getV]

/-- RET on a stack with a last entry. -/
theorem exec_ret_of_stack {s : State} {w : Word} {ws : List Word} (hstack : s.stack = ws ++ [w]) :
    ∃ t : State, exec .ret s = .next t ∧ t.stack = ws ∧ t.pc = w ∧ OnlyChanges [.stack, .pc] s t := by
  have hpop : s.pop = some (w, { s with stack := ws }) := State.pop_eq_some.2 ⟨ws, hstack, rfl⟩
  exact ⟨_, execRet_eq_next.2 (.inl ⟨_, _, hpop, rfl⟩), rfl, rfl,
    (State.pop_onlyChanges hpop).trans (State.setPc_onlyChanges _ _)⟩

/-- Settles O20: the two outcomes of RET are those of its pop. -/
theorem retPopsIntoThePc : Obligations.RetPopsIntoThePc :=
  ⟨by decide, fun _ _ _ => exec_ret_of_stack, fun _ hempty =>
    exec_failWith (execRet_eq_next.2 (.inr ⟨State.pop_eq_none.2 hempty, rfl⟩))⟩

/-- Settles O21: the entry the call pushed is the last one the return finds. -/
theorem callThenRetComesBack : Obligations.CallThenRetComesBack := by
  intro nnn s t u hroom hcall hstack
  obtain ⟨v, hpush, rfl⟩ | ⟨hfull, -⟩ := execCall_eq_next.1 hcall
  · obtain ⟨-, rfl⟩ := State.push_eq_some.1 hpush
    obtain ⟨w, hret, hws, hpc, hframe⟩ := exec_ret_of_stack hstack
    exact ⟨w, hret, hpc, hws, hframe⟩
  · exact absurd hroom (State.push_eq_none.1 hfull).not_gt

end Sys2Proof.Machine

/-! PROOFS. The subtractions and shifts with their flag, the drawn byte, and the addition to I (42 R188 to R193; 43 R222). -/

namespace Sys2Proof.Machine

/-- A subtraction mod 2^8 as one of natural numbers. -/
theorem toNat_sub_byte (a b : Byte) : (a - b).toNat = (a.toNat + 256 - b.toNat) % 256 := by
  have hb : b.toNat < 256 := b.isLt
  rw [BitVec.toNat_sub]
  omega

/-- A subtraction and its not-borrow. -/
theorem State.writeFlagged_sub (s : State) (x : Reg) (a b : Byte) :
    (x ≠ 0xF#4 → ((s.writeFlagged x (a - b) (notBorrow a b)).getV x).toNat = (a.toNat + 256 - b.toNat) % 256) ∧
      (s.writeFlagged x (a - b) (notBorrow a b)).getV 0xF#4 = (if a.toNat ≥ b.toNat then 1#8 else 0#8) ∧
      OnlyRegisters [x, 0xF#4] s (s.writeFlagged x (a - b) (notBorrow a b)) ∧
      OnlyChanges [.v] s (s.writeFlagged x (a - b) (notBorrow a b)) := by
  refine ⟨fun hx => ?_, ?_, s.writeFlagged_onlyRegisters _ _ _, s.writeFlagged_onlyChanges _ _ _⟩
  · rw [State.getV_writeFlagged_dest s _ _ hx, toNat_sub_byte]
  · exact (s.getV_writeFlagged_flag _ _ _).trans (flagByte_decide _)

/-- Settles O28: SUB and SUBN are the same write with the operands exchanged. -/
theorem subtractsWriteTheNotBorrow : Obligations.SubtractsWriteTheNotBorrow := by
  intro x y s
  refine ⟨?_, ?_, ⟨_, rfl, s.writeFlagged_sub _ _ _⟩, ⟨_, rfl, s.writeFlagged_sub _ _ _⟩⟩ <;>
    simp [decode_wordXYN_group8, decode8]

/-- The bits a shift shifts out, as numbers. -/
theorem flagByte_shiftedOutRight (b : Byte) : (flagByte (shiftedOutRight b)).toNat = b.toNat % 2 := by
  rw [shiftedOutRight, BitVec.getLsbD, Nat.testBit_zero]
  rcases Nat.mod_two_eq_zero_or_one b.toNat with h | h <;> simp [h, flagByte]

theorem flagByte_shiftedOutLeft (b : Byte) : (flagByte (shiftedOutLeft b)).toNat = b.toNat / 128 := by
  have hb : b.toNat < 256 := b.isLt
  rw [shiftedOutLeft, BitVec.getLsbD, Nat.testBit_eq_decide_div_mod_eq]
  rcases (by omega : b.toNat / 128 = 0 ∨ b.toNat / 128 = 1) with h | h <;> simp [h, flagByte]

/-- Settles O29: both shifts are `State.writeFlagged` of the configured source, under any configuration. -/
theorem shiftsWriteTheBitOut : Obligations.ShiftsWriteTheBitOut := by
  intro x y q s
  refine ⟨by simp [decode_wordXYN_group8, decode8], by simp [decode_wordXYN_group8, decode8],
    shiftSource q.shiftFromY x y s, rfl, ⟨_, rfl, ?_, fun hx => ?_, ?_, s.writeFlagged_onlyRegisters _ _ _,
      s.writeFlagged_onlyChanges _ _ _⟩, ⟨_, rfl, ?_, fun hx => ?_, ?_, s.writeFlagged_onlyRegisters _ _ _,
      s.writeFlagged_onlyChanges _ _ _⟩⟩
  · rintro rfl
    rfl
  · rw [State.getV_writeFlagged_dest s _ _ hx, BitVec.toNat_ushiftRight, Nat.shiftRight_eq_div_pow]
  · rw [State.getV_writeFlagged_flag, flagByte_shiftedOutRight]
  · rintro rfl
    rfl
  · rw [State.getV_writeFlagged_dest s _ _ hx, BitVec.toNat_shiftLeft, Nat.shiftLeft_eq, mul_comm]
  · rw [State.getV_writeFlagged_flag, flagByte_shiftedOutLeft]

theorem State.nextFree_onlyChanges (s : State) : OnlyChanges [.freeIndex] s s.nextFree := by
  intro p hp
  cases p with
  | freeIndex => simp at hp
  | _ => simp [Part.Same]

/-- Settles O30: RND is a register write after the draw. -/
theorem rndMasksTheDrawnByte : Obligations.RndMasksTheDrawnByte := by
  intro x kk s
  have hx : (s.nextFree.setV x (s.drawnByte &&& kk)).getV x = s.drawnByte &&& kk := State.getV_setV_same _ _ _
  refine ⟨?_, _, rfl, hx, ?_, rfl, s.nextFree.setV_onlyRegisters x _, ?_⟩
  · rw [decode_groupC (opGroup_wordXKK _ _ _), opX_wordXKK, opKK_wordXKK]
  · rintro rfl
    rw [hx, BitVec.and_zero]
  · exact (s.nextFree_onlyChanges.trans (State.setV_onlyChanges _ _ _)).mono (by decide)

/-- Settles O32: ADD I is a write of I. -/
theorem addIWraps : Obligations.AddIWraps := by
  intro x s
  refine ⟨by simp [decode_wordXKK_groupF, decodeF], _, rfl, ?_, s.setI_onlyChanges _⟩
  rw [State.setI_i, BitVec.toNat_add, zextByte, BitVec.toNat_setWidth_of_le (by decide)]

end Sys2Proof.Machine

/-! PROOFS. CLS, and DRW out of memory and of no rows (44 R251, R254, R258). -/

namespace Sys2Proof.Machine

/-- Settles O38: CLS writes the clear grid and marks the display. -/
theorem clsClearsEveryPixel : Obligations.ClsClearsEveryPixel :=
  ⟨by decide, fun s => ⟨_, rfl, fun c r _ _ => Display.pixel_clear c r, rfl,
    (s.setDisp_onlyChanges _).trans (State.markDisplay_onlyChanges _)⟩⟩

/-- Settles O40: the range read fails, or is of no bytes and draws nothing. -/
theorem drwRangeAndEmptySprite : Obligations.DrwRangeAndEmptySprite := by
  refine fun x y s => ⟨fun n hn hout => ?_, ?_⟩
  · have hread : s.mem.readRange s.i.toNat n.toNat = none :=
      Memory.readRange_eq_none.2 ⟨fun e => hn (BitVec.eq_of_toNat_eq e), hout⟩
    rw [exec, execDrw, hread]
  · exact ⟨_, rfl, State.getV_setV_same _ _ _, rfl, s.setV_onlyRegisters regVF _,
      (State.setV_onlyChanges s _ _).trans (State.markDisplay_onlyChanges _)⟩

end Sys2Proof.Machine

/-! PROOFS. Ticks, rejected loads and reset (60 R320; 70 R340 to R348). -/

namespace Sys2Proof.Machine

/-- A timer after a tick is one less, and 0 stays 0 (60 R320). -/
theorem tickTimer_toNat (b : Byte) : (tickTimer b).toNat = b.toNat - 1 := by
  unfold tickTimer
  split
  · next h => simp [h]
  · next h =>
    have hb : 0 < b.toNat := Nat.pos_of_ne_zero fun e => h (BitVec.eq_of_toNat_eq e)
    exact BitVec.toNat_sub_of_le (show (1#8).toNat ≤ b.toNat from hb)

/-- Settles O42: a tick writes both timers by `tickTimer`. -/
theorem tickDecrementsTheTimers : Obligations.TickDecrementsTheTimers := by
  refine fun q s => ⟨s.tick, rfl, tickTimer_toNat _, tickTimer_toNat _, fun p hp => ?_⟩
  cases p with
  | dt | st => simp at hp
  | _ => simp [Part.Same, State.getV]

/-- Settles O44: the length is tested first. -/
theorem oversizedProgramIsRejected : Obligations.OversizedProgramIsRejected := by
  intro buf reapply q s hbig
  have hload : s.loadProgram buf reapply = (s, .rejected) := if_neg (not_le.2 hbig)
  simp only [transact, hload]

/-- An answer with nothing to load is rejected. -/
theorem State.loadFontAnswer_rejected {answer : Option (List Byte)} (s : State) (id : FontId)
    (h : acceptedFont answer = none) : s.loadFontAnswer id answer = (s, .rejected) := by
  rw [State.loadFontAnswer, h]

/-- Settles O46: none of the three answers is one `acceptedFont` accepts. -/
theorem badFontIsRejected : Obligations.BadFontIsRejected := fun id s =>
  ⟨s.loadFontAnswer_rejected id rfl, s.loadFontAnswer_rejected id rfl, fun _ hbig =>
    s.loadFontAnswer_rejected id (if_neg fun h => absurd hbig h.2.not_gt)⟩

/-- Settles O47: with no font active nothing is re-applied, and the load overwrites every unspecified field. -/
theorem resetIsTheEmptyProgramLoad : Obligations.ResetIsTheEmptyProgramLoad := by
  intro q reapply hq
  refine ⟨_, if_neg (by simp [hq]), ?_⟩
  cases reapply <;> rfl

end Sys2Proof.Machine

/-! PROOFS. The transfers between registers and memory (43 R224 to R226; 20 R80). -/

namespace Sys2Proof.Machine

/-! ### A store at I -/

section

variable {s t : State} {bs : List Byte} (hwf : s.mem.wf = true) (h : s.storeAtI bs = some t)
include hwf h

/-- A store leaves its k-th byte at I + k. -/
theorem State.storeAtI_inside {k : Nat} (hk : k < bs.length) : t.mem.read (s.i.toNat + k) = bs.getD k 0#8 := by
  obtain ⟨m, hwrite, rfl⟩ := Option.map_eq_some_iff.1 h
  exact Memory.read_writeRange_inside hwf hwrite hk

theorem State.storeAtI_onlyBytes : OnlyBytes s.i.toNat bs.length s t := by
  obtain ⟨m, hwrite, rfl⟩ := Option.map_eq_some_iff.1 h
  exact fun _ => Memory.read_writeRange_outside hwf hwrite

omit hwf in
theorem State.storeAtI_onlyChanges : OnlyChanges [.mem] s t := by
  obtain ⟨-, rfl⟩ := State.storeAtI_eq_some.1 h
  intro p hp
  cases p with
  | mem => simp at hp
  | _ => simp [Part.Same]

end

/-- The digits of a byte are bytes. -/
theorem toNat_ofNat_byte {n : Nat} (h : n < 256) : (BitVec.ofNat 8 n).toNat = n := Nat.mod_eq_of_lt h

/-- Settles O34: LD B is a store at I of three digits. -/
theorem ldBStoresTheDigits : Obligations.LdBStoresTheDigits := by
  intro x s hwf
  have hx : (s.getV x).toNat < 256 := (s.getV x).isLt
  refine ⟨by simp [decode_wordXKK_groupF, decodeF], fun hfit => ?_, fun hout => ?_⟩
  · have hstore : s.storeAtI (decimalDigits (s.getV x)) = some _ := State.storeAtI_eq_some.2 ⟨hfit, rfl⟩
    have hlen : (decimalDigits (s.getV x)).length = 3 := rfl
    have hbyte := fun k => State.storeAtI_inside hwf hstore (k := k)
    refine ⟨_, execLdB_eq_next.2 hstore, ?_, ?_, ?_, State.storeAtI_onlyBytes hwf hstore,
      State.storeAtI_onlyChanges hstore⟩
    · exact (congrArg BitVec.toNat (hbyte 0 (hlen ▸ by decide))).trans (toNat_ofNat_byte (by omega))
    · exact (congrArg BitVec.toNat (hbyte 1 (hlen ▸ by decide))).trans (toNat_ofNat_byte (by omega))
    · exact (congrArg BitVec.toNat (hbyte 2 (hlen ▸ by decide))).trans (toNat_ofNat_byte (by omega))
  · have hstore : s.storeAtI (decimalDigits (s.getV x)) = none := State.storeAtI_eq_none.2 hout
    rw [exec, execLdB, hstore]

/-! ### LD [I], Vx and LD Vx, [I] -/

theorem advanceIndex_onlyChanges (inc : Bool) (x : Reg) (s : State) : OnlyChanges [.i] s (advanceIndex inc x s) :=
  advanceIndex_eq inc x s ▸ s.setI_onlyChanges _

/-- I after a transfer, by the mode (43 R225, R226). -/
theorem advanceIndex_i_toNat (inc : Bool) (x : Reg) (s : State) :
    (advanceIndex inc x s).i.toNat = if inc = true then (s.i.toNat + x.toNat + 1) % 65536 else s.i.toNat := by
  have hx : x.toNat < 16 := x.isLt
  rw [advanceIndex_eq, State.setI_i]
  cases inc with
  | false => rfl
  | true =>
    simp only [if_true, BitVec.toNat_add, BitVec.toNat_ofNat, transferCount]
    omega

@[simp] theorem advanceIndex_mem (inc : Bool) (x : Reg) (s : State) : (advanceIndex inc x s).mem = s.mem := by
  rw [advanceIndex_eq, State.setI_mem]

/-- The registers a transfer stores stand at I + r. -/
theorem read_storeRegisters {q : Quirks} {x r : Reg} {s t : State} (hwf : s.mem.wf = true)
    (h : storeRegisters q x s = .next t) (hr : r ≤ x) : t.mem.read (s.i.toNat + r.toNat) = s.getV r := by
  obtain ⟨u, hstore, rfl⟩ := storeRegisters_eq_next.1 h
  have hle : r.toNat ≤ x.toNat := hr
  rw [advanceIndex_mem, State.storeAtI_inside hwf hstore (by rw [firstRegisters_length, transferCount]; omega),
    firstRegisters_getD x s hle, BitVec.ofNat_toNat, BitVec.setWidth_eq]

/-- A transfer into memory whose range fits. -/
theorem storeRegisters_of_fit (q : Quirks) {x : Reg} {s : State} (hwf : s.mem.wf = true)
    (hfit : s.i.toNat + x.toNat + 1 ≤ 4096) :
    ∃ t : State, storeRegisters q x s = .next t ∧
      t.i.toNat = (if q.loadStoreInc = true then (s.i.toNat + x.toNat + 1) % 65536 else s.i.toNat) ∧
      OnlyBytes s.i.toNat (x.toNat + 1) s t ∧ OnlyChanges [.mem, .i] s t := by
  have hlen : (firstRegisters x s).length = x.toNat + 1 := firstRegisters_length x s
  have hstore : s.storeAtI (firstRegisters x s) = some _ := State.storeAtI_eq_some.2 ⟨by rw [hlen]; exact hfit, rfl⟩
  refine ⟨_, storeRegisters_eq_next.2 ⟨_, hstore, rfl⟩, advanceIndex_i_toNat _ _ _, fun a ha => ?_,
    (State.storeAtI_onlyChanges hstore).trans (advanceIndex_onlyChanges _ _ _)⟩
  rw [advanceIndex_mem]
  exact State.storeAtI_onlyBytes hwf hstore a (hlen ▸ ha)

theorem storeRegisters_of_out (q : Quirks) {x : Reg} {s : State} (hout : 4096 < s.i.toNat + x.toNat + 1) :
    storeRegisters q x s = .fault .memoryOutOfRange := by
  have hstore : s.storeAtI (firstRegisters x s) = none :=
    State.storeAtI_eq_none.2 (by rw [firstRegisters_length]; exact hout)
  rw [storeRegisters, hstore]

/-- Settles O35: LD [I] is a store at I of the first registers, then the increment. -/
theorem stRegsStoresTheRegisters : Obligations.StRegsStoresTheRegisters := by
  intro x q s hwf
  refine ⟨by simp [decode_wordXKK_groupF, decodeF], fun hfit => ?_,
    fun hout => ⟨storeRegisters_of_out q hout, storeRegisters_of_out Config.quirks hout⟩⟩
  obtain ⟨t, hexec, hi, hbytes, hframe⟩ := storeRegisters_of_fit q hwf hfit
  refine ⟨t, hexec, ?_, fun r hr => read_storeRegisters hwf hexec hr, hi, hbytes, hframe⟩
  rintro rfl
  exact hexec

theorem loadRegistersFrom_onlyChanges (k : Nat) (bs : List Byte) (s : State) :
    OnlyChanges [.v] s (loadRegistersFrom k bs s) := by
  rw [loadRegistersFrom_eq]
  intro p hp
  cases p with
  | v => simp at hp
  | _ => simp [Part.Same]

/-- A transfer from memory whose range fits. -/
theorem loadRegisters_of_fit (q : Quirks) {x : Reg} {s : State} (hfit : s.i.toNat + x.toNat + 1 ≤ 4096) :
    ∃ t : State, loadRegisters q x s = .next t ∧
      (∀ r : Reg, t.getV r = if r ≤ x then s.mem.read (s.i.toNat + r.toNat) else s.getV r) ∧
      t.i.toNat = (if q.loadStoreInc = true then (s.i.toNat + x.toNat + 1) % 65536 else s.i.toNat) ∧
      OnlyChanges [.v, .i] s t := by
  have hx : x.toNat < 16 := x.isLt
  have hread : s.mem.readRange s.i.toNat (transferCount x) = some _ := Memory.readRange_eq_some.2 ⟨.inr hfit, rfl⟩
  have hlen : _ = x.toNat + 1 := Memory.length_readRange hread
  refine ⟨_, loadRegisters_eq_next.2 ⟨_, hread, rfl⟩, fun r => ?_, ?_,
    (loadRegistersFrom_onlyChanges _ _ s).trans (advanceIndex_onlyChanges _ _ _)⟩
  · rw [getV_advanceIndex, getV_loadRegistersFrom _ _ _ (by omega)]
    refine if_ctx_congr ?_ (fun hr => ?_) fun _ => rfl
    · rw [hlen, BitVec.le_def]
      omega
    · have hle : r.toNat ≤ x.toNat := hr
      exact Memory.getD_readRange hread (Nat.lt_succ_of_le hle)
  · rw [advanceIndex_i_toNat, loadRegistersFrom_eq]

theorem loadRegisters_of_out (q : Quirks) {x : Reg} {s : State} (hout : 4096 < s.i.toNat + x.toNat + 1) :
    loadRegisters q x s = .fault .memoryOutOfRange := by
  have hread : s.mem.readRange s.i.toNat (transferCount x) = none :=
    Memory.readRange_eq_none.2 ⟨Nat.succ_ne_zero _, hout⟩
  rw [loadRegisters, hread]

/-- Settles O36: LD Vx, [I] loads the bytes of its range read, then the increment. -/
theorem ldRegsLoadsTheRegisters : Obligations.LdRegsLoadsTheRegisters := by
  intro x q s
  refine ⟨by simp [decode_wordXKK_groupF, decodeF], fun hfit => ?_,
    fun hout => ⟨loadRegisters_of_out q hout, loadRegisters_of_out Config.quirks hout⟩⟩
  obtain ⟨t, hexec, hv, hi, hframe⟩ := loadRegisters_of_fit q hfit
  refine ⟨t, hexec, ?_, hv, hi, hframe⟩
  rintro rfl
  exact hexec

/-- Settles O37: both registers are stored, side by side, and the fetch reads them back. -/
theorem storedWordIsFetched : Obligations.StoredWordIsFetched := by
  intro x r s t u hwf hr hexec hmem hpc
  have hlt : r.toNat < x.toNat := hr
  have hx : x.toNat < 16 := x.isLt
  have hnext : (r + 1#4).toNat = r.toNat + 1 := by
    rw [BitVec.toNat_add]
    simp only [BitVec.toNat_ofNat]
    omega
  have hhigh : t.mem.read (s.i.toNat + r.toNat) = s.getV r := read_storeRegisters hwf hexec (BitVec.le_of_lt hr)
  have hlow : t.mem.read (s.i.toNat + r.toNat + 1) = s.getV (r + 1#4) := by
    rw [Nat.add_assoc, ← hnext]
    exact read_storeRegisters hwf hexec (BitVec.le_def.2 (by omega))
  have hfit : s.i.toNat + x.toNat + 1 ≤ 4096 := by
    by_contra hout
    rw [exec, execStRegs, storeRegisters_of_out _ (not_le.1 hout)] at hexec
    cases hexec
  rw [State.fetch_eq, if_pos (by omega), hmem, hpc, hhigh, hlow]
  rfl

end Sys2Proof.Machine

/-! PROOFS. What an accepted load writes (70 R342 to R347). -/

namespace Sys2Proof.Machine

/-- Settles O45: an accepted answer is written from FONT_BASE on, within the bounds of `fontRegion_end`. -/
theorem fontLoadWritesTheRegion : Obligations.FontLoadWritesTheRegion := by
  refine ⟨fontRegionSize_ge, fontRegion_end, fun _ _ _ => rfl, fun id bs s hwf hpos hfit => ?_⟩
  have hend := fontRegion_end
  have hread := Memory.read_writeAll (bs := bs) hwf (show Config.fontBase + bs.length ≤ 4096 by omega)
  refine ⟨{ s with mem := s.mem.writeAll Config.fontBase bs, activeFont := some id }, ?_, rfl, fun k hk => ?_,
    fun a ha => ?_, fun p hp => ?_⟩
  · rw [State.loadFontAnswer, acceptedFont_eq_some.2 ⟨rfl, hpos, hfit⟩]
  · rw [hread, if_pos (by omega), Nat.add_sub_cancel_left]
  · rw [hread, if_neg (by omega)]
  · cases p with
    | mem | activeFont => simp at hp
    | _ => simp [Part.Same, State.getV]

/-- A byte of the zeroed memory with a font written into it. -/
theorem read_fontMemory {bs : List Byte} (hfit : bs.length ≤ Config.fontRegionSize) (a : Nat) :
    (Memory.writeAll [] Config.fontBase bs).read a =
      if Config.fontBase ≤ a ∧ a < Config.fontBase + bs.length then bs.getD (a - Config.fontBase) 0#8 else 0#8 := by
  have hend := fontRegion_end
  exact Memory.read_writeAll Memory.wf_nil (show _ ≤ 4096 by omega) a

/-- Memory before the program is written: zero but for the font, when it is re-applied. -/
def fontMemory (font : Option FontId) (reapply : Bool) : Memory :=
  if reapply then Memory.writeAll [] Config.fontBase (activeFontBytes font) else []

theorem fontMemory_wf (font : Option FontId) (reapply : Bool) : (fontMemory font reapply).wf = true := by
  cases reapply with
  | false => exact Memory.wf_nil
  | true => exact wf_writeFont Memory.wf_nil (activeFontBytes_length font)

/-- The font ends below the program. -/
theorem read_fontMemory_above (font : Option FontId) (reapply : Bool) {a : Nat} (ha : 0x200 ≤ a) :
    (fontMemory font reapply).read a = 0#8 := by
  cases reapply with
  | false => rfl
  | true =>
    have hend := fontRegion_end
    have hlen := activeFontBytes_length font
    exact (read_fontMemory hlen a).trans (if_neg (by omega))

/-- A byte after a program load. -/
theorem read_loadedMemory (font : Option FontId) (reapply : Bool) {buf : List Byte} (hfit : buf.length ≤ 3584) (a : Nat) :
    (loadedMemory font reapply buf).read a =
      if 0x200 ≤ a ∧ a < 0x200 + buf.length then buf.getD (a - 0x200) 0#8 else (fontMemory font reapply).read a :=
  Memory.read_writeAll (fontMemory_wf font reapply) (show 0x200 + _ ≤ 4096 by omega) a

theorem read_loadedMemory_below (font : Option FontId) (reapply : Bool) {buf : List Byte} (hfit : buf.length ≤ 3584)
    {a : Nat} (ha : a < 0x200) : (loadedMemory font reapply buf).read a = (fontMemory font reapply).read a := by
  rw [read_loadedMemory font reapply hfit, if_neg (by omega)]

theorem read_loadedMemory_above (font : Option FontId) (reapply : Bool) {buf : List Byte} (hfit : buf.length ≤ 3584)
    {a : Nat} (ha : 0x200 ≤ a) : (loadedMemory font reapply buf).read a = buf.getD (a - 0x200) 0#8 := by
  rw [read_loadedMemory font reapply hfit, read_fontMemory_above font reapply ha]
  split
  · rfl
  · rw [List.getD_eq_default _ _ (by omega)]

/-- A font `load_font` would accept is re-applied. -/
theorem read_fontMemory_accepted {font : Option FontId} {bs : List Byte}
    (h : acceptedFont (font.bind Config.fontData) = some bs) (a : Nat) :
    (fontMemory font true).read a =
      if Config.fontBase ≤ a ∧ a < Config.fontBase + bs.length then bs.getD (a - Config.fontBase) 0#8 else 0#8 := by
  have hbytes : activeFontBytes font = bs := by
    rw [activeFontBytes, h, Option.getD_some]
  rw [fontMemory, if_pos rfl, hbytes]
  exact read_fontMemory (acceptedFont_eq_some.1 h).2.2 a

/-- Without such a font there is nothing to re-apply. -/
theorem fontMemory_rejected {font : Option FontId} (h : acceptedFont (font.bind Config.fontData) = none) :
    fontMemory font true = [] := by
  rw [fontMemory, if_pos rfl, activeFontBytes, h, Option.getD_none, Memory.writeAll]

theorem fontMemory_none {font : Option FontId} {reapply : Bool} (h : reapply = false ∨ font = none) :
    fontMemory font reapply = [] := by
  cases reapply with
  | false => rfl
  | true =>
    obtain rfl : font = none := by simpa using h
    exact fontMemory_rejected rfl

/-- Settles O43: the load writes the fields as listed, and its memory is the program over the font. -/
theorem programLoadResets : Obligations.ProgramLoadResets := by
  intro buf reapply q s hfit
  refine ⟨{ s with
      v := Vector.replicate 16 0#8, i := 0#16, pc := progOrigin, dt := 0#8, st := 0#8, stack := [],
      mem := loadedMemory s.activeFont reapply buf, haltedFetch := false }, ?_, fun r => ?_, rfl, rfl, rfl, rfl, rfl, rfl,
    fun a ha => read_loadedMemory_above _ _ hfit ha, fun a ha hnone => ?_, fun a ha hre => ?_, fun p hp => ?_⟩
  · simp only [transact, State.loadProgram, if_pos (show buf.length ≤ progMax from hfit)]
  · simp [State.getV]
  · rw [read_loadedMemory_below _ _ hfit ha, fontMemory_none hnone]
    rfl
  · rw [read_loadedMemory_below _ _ hfit ha, hre]
    split
    · next bs hbs => exact read_fontMemory_accepted hbs a
    · next hnone =>
      rw [fontMemory_rejected hnone]
      rfl
  · cases p with
    | disp | activeFont | fault | result | freeIndex => simp [Part.Same]
    | _ => simp at hp

end Sys2Proof.Machine

/-! PROOFS. Noninterference: a change of the state that no shared operation reads or undoes runs through every instruction
(10 R41, R48, R50). -/

namespace Sys2Proof.Machine

/-! ### A change that no operation sees -/

/-- The shared operations read the same before and after the change, and writing and changing may be exchanged. -/
structure Unseen (f : State → State) : Prop where
  getV : ∀ s r, (f s).getV r = s.getV r
  i : ∀ s, (f s).i = s.i
  pc : ∀ s, (f s).pc = s.pc
  dt : ∀ s, (f s).dt = s.dt
  mem : ∀ s, (f s).mem = s.mem
  stack : ∀ s, (f s).stack = s.stack
  drawnByte : ∀ s, (f s).drawnByte = s.drawnByte
  setV : ∀ s r b, (f s).setV r b = f (s.setV r b)
  setI : ∀ s w, (f s).setI w = f (s.setI w)
  setPc : ∀ s w, (f s).setPc w = f (s.setPc w)
  setDT : ∀ s b, (f s).setDT b = f (s.setDT b)
  setMem : ∀ s m, (f s).setMem m = f (s.setMem m)
  setStack : ∀ (s : State) ws, { f s with stack := ws } = f { s with stack := ws }
  failWith : ∀ s c, (f s).failWith c = f (s.failWith c)
  nextFree : ∀ s, (f s).nextFree = f s.nextFree

/-- No operation above names the font, ST or the display. -/
theorem unseen_activeFont (font : Option FontId) : Unseen fun s => { s with activeFont := font } := by
  constructor <;> intros <;> rfl

theorem unseen_st (b : Byte) : Unseen fun s => { s with st := b } := by
  constructor <;> intros <;> rfl

theorem unseen_disp (d : Display) : Unseen fun s => { s with disp := d } := by
  constructor <;> intros <;> rfl

namespace Unseen

variable {f : State → State} (hf : Unseen f)
include hf

/-! ### The operations with more than one outcome or write -/

theorem push (s : State) (w : Word) : (f s).push w = (s.push w).map f := by
  rw [State.push, hf.stack, hf.setStack, State.push]
  split <;> rfl

theorem pop (s : State) : (f s).pop = s.pop.map (Prod.map id f) := by
  rw [State.pop, hf.stack, hf.setStack, State.pop]
  cases s.stack.getLast? <;> rfl

theorem skipIf (s : State) (c : Bool) : (f s).skipIf c = f (s.skipIf c) := by
  rw [State.skipIf_eq, State.skipIf_eq, hf.pc, hf.setPc]

theorem writeFlagged (s : State) (x : Reg) (b : Byte) (c : Bool) :
    (f s).writeFlagged x b c = f (s.writeFlagged x b c) := by
  rw [State.writeFlagged, hf.setV, hf.setV, State.writeFlagged]

theorem storeAtI (s : State) (bs : List Byte) : (f s).storeAtI bs = (s.storeAtI bs).map f := by
  rw [State.storeAtI, hf.i, hf.mem, State.storeAtI, Option.map_map]
  exact congrArg (Option.map · _) (funext (hf.setMem s))

theorem advanceIndex (s : State) (inc : Bool) (x : Reg) :
    advanceIndex inc x (f s) = f (advanceIndex inc x s) := by
  rw [advanceIndex_eq, advanceIndex_eq, hf.i, hf.setI]

theorem firstRegisters (s : State) (x : Reg) : firstRegisters x (f s) = firstRegisters x s := by
  simp only [Machine.firstRegisters, hf.getV]

theorem loadRegistersFrom (k : Nat) (bs : List Byte) (s : State) :
    loadRegistersFrom k bs (f s) = f (loadRegistersFrom k bs s) := by
  induction bs generalizing k s with
  | nil => rfl
  | cons b bs ih => rw [Machine.loadRegistersFrom, hf.setV, ih, Machine.loadRegistersFrom]

/-! ### The instructions -/

/-- The change runs through every instruction that writes neither the display nor ST. -/
theorem exec_eq {i : Instr} (s : State) (hd : i.mayWriteDisp = false) (hs : i.isLdSt = false) :
    exec i (f s) = mapNext f (exec i s) := by
  cases i with
  | cls | drw => cases hd
  | ldSt => cases hs
  | ret =>
    simp only [exec, execRet, hf.pop]
    cases s.pop <;> simp [mapNext, hf.setPc, hf.failWith]
  | call =>
    simp only [exec, execCall, hf.pc, hf.push]
    cases s.push s.pc <;> simp [mapNext, hf.setPc, hf.failWith]
  | ldB x =>
    simp only [exec, execLdB, hf.getV, hf.storeAtI]
    cases s.storeAtI (decimalDigits (s.getV x)) <;> rfl
  | stRegs x =>
    simp only [exec, execStRegs, storeRegisters, hf.firstRegisters, hf.storeAtI]
    cases s.storeAtI (Machine.firstRegisters x s) <;> simp [mapNext, hf.advanceIndex]
  | ldRegs x =>
    simp only [exec, execLdRegs, loadRegisters, hf.mem, hf.i]
    cases s.mem.readRange s.i.toNat (transferCount x) <;> simp [mapNext, hf.loadRegistersFrom, hf.advanceIndex]
  | sys | skp | sknp | ldK | invalid8 | invalidE | invalidF => exact congrArg Host.Outcome.next (hf.failWith s _)
  | jp => exact congrArg Host.Outcome.next (hf.setPc s _)
  | jpV0 => simp only [exec, execJpV0, jumpOffset, jumpTarget, hf.getV, hf.setPc, mapNext]
  | seImm | sneImm | seReg | sneReg =>
    simp only [exec, execSeImm, execSneImm, execSeReg, execSneReg, hf.getV, hf.skipIf, mapNext]
  | ldImm | addImm | ldReg | orReg | andReg | xorReg | ldFromDt =>
    simp only [exec, execLdImm, execAddImm, execLdReg, execOrReg, execAndReg, execXorReg, execLdFromDt, hf.getV, hf.dt,
      hf.setV, mapNext]
  | addReg | sub | subn =>
    simp only [exec, execAddReg, execSub, execSubn, hf.getV, hf.writeFlagged, mapNext]
  | shr | shl =>
    simp only [exec, execShr, execShl, shiftRight, shiftLeft, shiftSource, hf.getV, hf.writeFlagged, mapNext]
  | rnd => simp only [exec, execRnd, hf.drawnByte, hf.nextFree, hf.setV, mapNext]
  | ldI => exact congrArg Host.Outcome.next (hf.setI s _)
  | addI | ldF => simp only [exec, execAddI, execLdF, hf.getV, hf.i, hf.setI, mapNext]
  | ldDt => simp only [exec, execLdDt, hf.getV, hf.setDT, mapNext]

/-- The change runs through DRW too, when the draw sees it as little. -/
theorem exec_drw (x y : Reg) (n : Nibble) (s : State) (hdisp : ∀ s, (f s).disp = s.disp)
    (hset : ∀ s d, (f s).setDisp d = f (s.setDisp d)) (hmark : ∀ s, (f s).markDisplay = f s.markDisplay) :
    exec (.drw x y n) (f s) = mapNext f (exec (.drw x y n) s) := by
  have hdraw : ∀ rows, drawSprite x y rows (f s) = drawSprite x y rows s := fun rows => by
    rw [drawSprite, originX, originY, hf.getV, hf.getV, hdisp]
    rfl
  simp only [exec, execDrw, hf.mem, hf.i]
  cases s.mem.readRange s.i.toNat n.toNat <;> simp [mapNext, hdraw, hset, hf.setV, hmark]

end Unseen

/-! ### The obligations -/

/-- Settles O58: no instruction names the font. -/
theorem activeFontDoesNotMatter : Obligations.ActiveFontDoesNotMatter := by
  intro i s font
  cases i with
  | drw => exact (unseen_activeFont font).exec_drw _ _ _ s (fun _ => rfl) (fun _ _ => rfl) fun _ => rfl
  | cls | ldSt => rfl
  | _ => exact (unseen_activeFont font).exec_eq s rfl rfl

/-- Settles O59: LD ST overwrites the value, and no other instruction names ST. -/
theorem soundTimerIsNeverRead : Obligations.SoundTimerIsNeverRead := by
  intro i s b
  cases i with
  | drw => exact (unseen_st b).exec_drw _ _ _ s (fun _ => rfl) (fun _ _ => rfl) fun _ => rfl
  | cls | ldSt => rfl
  | _ => exact (unseen_st b).exec_eq s rfl rfl

/-- Settles O60: CLS overwrites the display, and no other instruction but DRW names it. -/
theorem onlyDrwReadsTheDisplay : Obligations.OnlyDrwReadsTheDisplay := by
  intro i s d hi
  cases i with
  | drw => exact absurd rfl (hi _ _ _)
  | cls | ldSt => rfl
  | _ => exact (unseen_disp d).exec_eq s rfl rfl

end Sys2Proof.Machine
